-- ==== Sys2Proof/Word.lean ====
section
/-! DEFINITION. The widths QRCORE has (00_scope.md R7, R8): field elements and buffer bytes of 8 bits, registers of
32 bits, command words of 64 bits. Every value is unsigned. -/

namespace Sys2Proof

/-- A field element, a buffer byte, or an 8-bit field of a command word (R7, R73). -/
abbrev Byte := BitVec 8

/-- A register, or the immediate field of a command word (R7, R20, R73). -/
abbrev Word := BitVec 32

/-- A command word (R70, R71). -/
abbrev Command := BitVec 64

/-- `zext_32(v)` of a byte (R9): the byte in a 32-bit register. -/
abbrev zextByte (v : Byte) : Word := v.zeroExtend 32

end Sys2Proof
end

