-- ==== Sys2Proof/Syntax.lean ====
section
/-! DEFINITION. The thirty commands of QRCORE (30_encoding.md R75), one constructor per row of spec/opcode_table.json,
in the table's order. An operand is the field of the command word as R73 reads it: an out-of-range operand value is a
legal word whose command raises a fault (R76), so every value of a field is kept. -/

namespace Sys2Proof

inductive Instr where
  /-- NOP (R100). -/
  | nop
  /-- RESET (R101). -/
  | reset
  /-- REG_READ, register id (R102). -/
  | regRead (n : Byte)
  /-- BUF_CLEAR, writable buffer id (R103). -/
  | bufClear (b : Byte)
  /-- BUF_PUSH, writable buffer id and byte (R104). -/
  | bufPush (b v : Byte)
  /-- BUF_READ, buffer id and index (R105). -/
  | bufRead (b : Byte) (i : Word)
  /-- BUF_LEN, buffer id (R106). -/
  | bufLen (b : Byte)
  /-- BS_CLEAR (R130). -/
  | bsClear
  /-- BS_WRITE, bit count and value (R132). -/
  | bsWrite (n : Byte) (value : Word)
  /-- BS_TOTAL (R133). -/
  | bsTotal
  /-- BS_FINALIZE (R134). -/
  | bsFinalize
  /-- RD_INIT, buffer id (R135). -/
  | rdInit (b : Byte)
  /-- RD_HAS (R137). -/
  | rdHas
  /-- RD_BIT (R136). -/
  | rdBit
  /-- GF_ADD, two field elements (R170). -/
  | gfAdd (a b : Byte)
  /-- GF_MUL, two field elements (R171). -/
  | gfMul (a b : Byte)
  /-- GF_DIV, dividend and divisor (R172). -/
  | gfDiv (a b : Byte)
  /-- GF_EXP, exponent (R173). -/
  | gfExp (i : Byte)
  /-- GF_LOG, field element (R174). -/
  | gfLog (a : Byte)
  /-- RS_GEN, degree (R200). -/
  | rsGen (r : Byte)
  /-- RS_ENC, degree (R201). -/
  | rsEnc (r : Byte)
  /-- RS_SYND, syndrome count (R202). -/
  | rsSynd (r : Byte)
  /-- SEG_CHECK, mode code (R260). -/
  | segCheck (m : Byte)
  /-- SEG_COUNT, mode code (R261). -/
  | segCount (m : Byte)
  /-- SEG_WRITE, mode code (R262). -/
  | segWrite (m : Byte)
  /-- SEG_AUTO (R263). -/
  | segAuto
  /-- ASM_SELECT, mode code or 0xFF, and level code (R290). -/
  | asmSelect (a l : Byte)
  /-- ASM_DATA (R291). -/
  | asmData
  /-- ASM_BLOCKS (R292). -/
  | asmBlocks
  /-- ASM_ENCODE, mode code or 0xFF, and level code (R293). -/
  | asmEncode (a l : Byte)
deriving DecidableEq, Repr

end Sys2Proof
end

