-- ==== Sys2Proof/Decode.lean ====
section
/-! DEFINITION. Decoding a command word (30_encoding.md R71, R72, R75, R76, R78), total on every 64-bit word, and after it
the encoder, written from the same tables. -/

namespace Sys2Proof

/-! ## Fields (R71, R73) -/

/-- OP = w[63:56]. -/
def opField (w : Command) : Byte := w.extractLsb' 56 8

/-- A = w[55:48]. -/
def aField (w : Command) : Byte := w.extractLsb' 48 8

/-- B = w[47:40]. -/
def bField (w : Command) : Byte := w.extractLsb' 40 8

/-- C = w[39:32]. -/
def cField (w : Command) : Byte := w.extractLsb' 32 8

/-- IMM = w[31:0]. -/
def immField (w : Command) : Word := w.extractLsb' 0 32

/-! ## Formats and the opcode map (R72, R75) -/

/-- The four formats of R72. -/
inductive Format where
  | N
  | A
  | AB
  | AI
deriving DecidableEq, Repr

/-- The tests of R78 on the reserved fields of a format: true when each of them is 0. -/
def Format.reservedClear (fmt : Format) (w : Command) : Bool :=
  match fmt with
  | .N => cField w == 0 && bField w == 0 && aField w == 0 && immField w == 0
  | .A => cField w == 0 && bField w == 0 && immField w == 0
  | .AB => cField w == 0 && immField w == 0
  | .AI => cField w == 0 && bField w == 0

/-- OPMAP (R75): the format of each assigned OP value. -/
def opFormat (op : Byte) : Option Format :=
  match op.toNat with
  | 0x00 => some .N
  | 0x01 => some .N
  | 0x02 => some .A
  | 0x03 => some .A
  | 0x04 => some .AB
  | 0x05 => some .AI
  | 0x06 => some .A
  | 0x10 => some .N
  | 0x11 => some .AI
  | 0x12 => some .N
  | 0x13 => some .N
  | 0x14 => some .A
  | 0x15 => some .N
  | 0x16 => some .N
  | 0x20 => some .AB
  | 0x21 => some .AB
  | 0x22 => some .AB
  | 0x23 => some .A
  | 0x24 => some .A
  | 0x30 => some .A
  | 0x31 => some .A
  | 0x32 => some .A
  | 0x40 => some .A
  | 0x41 => some .A
  | 0x42 => some .A
  | 0x43 => some .N
  | 0x50 => some .AB
  | 0x51 => some .N
  | 0x52 => some .N
  | 0x53 => some .AB
  | _ => none

/-- OPMAP (R75): the command of each assigned OP value, with the operands of its format. -/
def opCommand (op a b : Byte) (imm : Word) : Option Instr :=
  match op.toNat with
  | 0x00 => some .nop
  | 0x01 => some .reset
  | 0x02 => some (.regRead a)
  | 0x03 => some (.bufClear a)
  | 0x04 => some (.bufPush a b)
  | 0x05 => some (.bufRead a imm)
  | 0x06 => some (.bufLen a)
  | 0x10 => some .bsClear
  | 0x11 => some (.bsWrite a imm)
  | 0x12 => some .bsTotal
  | 0x13 => some .bsFinalize
  | 0x14 => some (.rdInit a)
  | 0x15 => some .rdHas
  | 0x16 => some .rdBit
  | 0x20 => some (.gfAdd a b)
  | 0x21 => some (.gfMul a b)
  | 0x22 => some (.gfDiv a b)
  | 0x23 => some (.gfExp a)
  | 0x24 => some (.gfLog a)
  | 0x30 => some (.rsGen a)
  | 0x31 => some (.rsEnc a)
  | 0x32 => some (.rsSynd a)
  | 0x40 => some (.segCheck a)
  | 0x41 => some (.segCount a)
  | 0x42 => some (.segWrite a)
  | 0x43 => some .segAuto
  | 0x50 => some (.asmSelect a b)
  | 0x51 => some .asmData
  | 0x52 => some .asmBlocks
  | 0x53 => some (.asmEncode a b)
  | _ => none

/-! ## Decode (R78) -/

/-- Why a word is illegal (R76). -/
inductive Illegal where
  /-- OP is one of the 226 values not in R75. -/
  | unknownOpcode
  /-- A reserved field of the format is not 0. -/
  | reservedField
deriving DecidableEq, Repr

/-- What decoding a word gives (R78). -/
inductive Decoded where
  | command (i : Instr)
  | illegal (why : Illegal)
deriving DecidableEq, Repr

/-- `decode(w)` (R78). -/
def decode (w : Command) : Decoded :=
  match opFormat (opField w) with
  | none => .illegal .unknownOpcode
  | some fmt =>
    if fmt.reservedClear w then
      match opCommand (opField w) (aField w) (bField w) (immField w) with
      | some i => .command i
      | none => .illegal .unknownOpcode
    else .illegal .reservedField

/-- The instruction the decoder reads from the `nbits` low bits of `w`, every bit above them 0. A command word is ONE
64-bit value and no rule carries it as bytes (R55; log entry 15), so the table's bit numbers are the word's. -/
def decodeTableWord (nbits w : Nat) : Option Instr :=
  match decode (BitVec.ofNat 64 (w % 2 ^ nbits)) with
  | .command i => some i
  | .illegal _ => none

/-! ## Encode (R71, R75) -/

/-- A word from its fields (R71). -/
def wordOf (op a b c : Byte) (imm : Word) : Command := op ++ a ++ b ++ c ++ imm

/-- Format N (R72). -/
def encodeN (op : Byte) : Command := wordOf op 0 0 0 0

/-- Format A (R72). -/
def encodeA (op a : Byte) : Command := wordOf op a 0 0 0

/-- Format AB (R72). -/
def encodeAB (op a b : Byte) : Command := wordOf op a b 0 0

/-- Format AI (R72). -/
def encodeAI (op a : Byte) (imm : Word) : Command := wordOf op a 0 0 imm

/-- The word of a command: its opcode (R75), its operands in the fields of its format, every reserved field 0 (R72). -/
def encode : Instr → Command
  | .nop => encodeN 0x00
  | .reset => encodeN 0x01
  | .regRead n => encodeA 0x02 n
  | .bufClear b => encodeA 0x03 b
  | .bufPush b v => encodeAB 0x04 b v
  | .bufRead b i => encodeAI 0x05 b i
  | .bufLen b => encodeA 0x06 b
  | .bsClear => encodeN 0x10
  | .bsWrite n value => encodeAI 0x11 n value
  | .bsTotal => encodeN 0x12
  | .bsFinalize => encodeN 0x13
  | .rdInit b => encodeA 0x14 b
  | .rdHas => encodeN 0x15
  | .rdBit => encodeN 0x16
  | .gfAdd a b => encodeAB 0x20 a b
  | .gfMul a b => encodeAB 0x21 a b
  | .gfDiv a b => encodeAB 0x22 a b
  | .gfExp i => encodeA 0x23 i
  | .gfLog a => encodeA 0x24 a
  | .rsGen r => encodeA 0x30 r
  | .rsEnc r => encodeA 0x31 r
  | .rsSynd r => encodeA 0x32 r
  | .segCheck m => encodeA 0x40 m
  | .segCount m => encodeA 0x41 m
  | .segWrite m => encodeA 0x42 m
  | .segAuto => encodeN 0x43
  | .asmSelect a l => encodeAB 0x50 a l
  | .asmData => encodeN 0x51
  | .asmBlocks => encodeN 0x52
  | .asmEncode a l => encodeAB 0x53 a l

end Sys2Proof
end

