-- ==== Sys2Proof/Machine/Bits.lean ====
section
/-! DEFINITION. Bit sequences (00_scope.md R9, 20_memory.md R54): a sequence of bits is a list of Bool, the first
appended bit first, and every multi-bit value is written most-significant bit first. -/

namespace Sys2Proof

/-- `bitsOf(v, n)` = [v[n-1], ..., v[0]], empty when n = 0 (R9). -/
def bitsOf (v : Nat) : Nat → List Bool
  | 0 => []
  | n + 1 => v.testBit n :: bitsOf v n

/-- `zeros(n)` as bits (R9). -/
def zeroBits (n : Nat) : List Bool := List.replicate n false

/-- `zeros(n)` as field elements (R9). -/
def zeroBytes (n : Nat) : List Byte := List.replicate n 0

/-- `ceil(n/8)` (R9). -/
def ceilBytes (n : Nat) : Nat := (n + 7) / 8

/-- The number a sequence of bits denotes, most-significant bit first (R54). -/
def bitsValue (bits : List Bool) : Nat := bits.foldl (fun acc b => 2 * acc + b.toNat) 0

/-- The byte of up to 8 bits, most-significant bit first, unused low bits 0 (10_state.md R31). -/
def packByte (bits : List Bool) : Byte := BitVec.ofNat 8 (bitsValue (bits ++ zeroBits (8 - bits.length)))

/-- The first `n` bytes of a bit sequence, eight bits each. -/
def packBytes : Nat → List Bool → List Byte
  | 0, _ => []
  | n + 1, bits => packByte (bits.take 8) :: packBytes n (bits.drop 8)

/-- `finalize(BS)` (R31). -/
def finalize (bits : List Bool) : List Byte := packBytes (ceilBytes bits.length) bits

end Sys2Proof
end

