-- ==== Sys2Proof/Config.lean ====
section
/-! DEFINITION. The configuration of a QRCORE (00_scope.md R6, 10_state.md R34 and R35, 44_tables.md): the parameters
a machine is built with, which no command writes and reset does not change. The values the spec fixes are constants
here. The values a configuration supplies are fields of `Config`. -/

namespace Sys2Proof

/-- The three segment modes QRCORE has (R74, R221; kanji is left out, D25). -/
inductive Mode where
  | numeric
  | alnum
  | byte
deriving DecidableEq, Repr

/-- EC_PROFILE(v, l): one record of the EC-profile table, six natural numbers (R220). The second group is absent when
`g2Blocks = 0`. -/
structure Profile where
  totalData  : Nat
  ecPerBlock : Nat
  g1Blocks   : Nat
  g1Data     : Nat
  g2Blocks   : Nat
  g2Data     : Nat
deriving DecidableEq, Repr

/-- CAPACITY(v, l, m) for the three modes of one (v, l) (R221). `none` is an entry that is not supplied: R227 then gives
its value. -/
structure CapacityRow where
  numeric : Option Nat
  alnum   : Option Nat
  byte    : Option Nat
deriving DecidableEq, Repr

/-- CCI_WIDTH(band, m) for the three modes of one version band (R223). -/
structure CciRow where
  numeric : Nat
  alnum   : Nat
  byte    : Nat
deriving DecidableEq, Repr

/-- HOST_WORD_ORDER: how a host bus carries a command word as bytes (R55). No rule reads it (log entry 15). -/
inductive WordOrder where
  | littleEndian
  | bigEndian
deriving DecidableEq, Repr

/-- The parameters of R6 that a configuration supplies. `ecProfile` holds one list per version 1..40, each with one
record per level 0..3. `capacity` has the same shape, and entries missing from it are not supplied (R227,
log entry 16). -/
structure Config where
  ecProfile      : List (List Profile)
  capacity       : List (List CapacityRow)
  cciBand0       : CciRow
  cciBand1       : CciRow
  cciBand2       : CciRow
  modeIndNumeric : BitVec 4
  modeIndByte    : BitVec 4
  pad0           : Byte
  pad1           : Byte
  inMax          : Nat
  rsMaxMsg       : Nat
  rsMaxEc        : Nat
  maxData        : Nat
  maxEcall       : Nat
  maxFinal       : Nat
  bsMaxBits      : Nat
  hostWordOrder  : WordOrder
deriving DecidableEq, Repr

/-- GF_GEN: the generator element of the field, fixed by the source (R6). -/
def gfGen : Byte := 2

/-- PRIM_POLY: the field modulus x^8 + x^4 + x^3 + x^2 + 1 (R6, R160, D39; log entry 13). -/
def primPoly : BitVec 9 := 0x11D

/-- NUM_VERSIONS: versions 1..40 are searched (R6, R284). -/
def numVersions : Nat := 40

/-- NUM_LEVELS: EC level codes 0..3 (R6). -/
def numLevels : Nat := 4

/-- BS_WRITE_MAX: the widest single write (R6, R132). -/
def bsWriteMax : Nat := 32

/-- MODE_IND(1), fixed by the source at 0010 (R6, R224). -/
def modeIndAlnum : BitVec 4 := 0b0010

end Sys2Proof
end

