-- ==== Sys2Proof/Machine/Tables.lean ====
section
/-! DEFINITION. Reading the configuration tables (44_tables.md R220-R225, R227) and the checks on a supplied
configuration (R226 and 20_memory.md R53). -/

namespace Sys2Proof

/-- Mode codes 0, 1 and 2 (30_encoding.md R74). -/
def Mode.code : Mode → Nat
  | .numeric => 0
  | .alnum => 1
  | .byte => 2

/-- The mode of a mode code, none for an unknown one (R74). -/
def Mode.ofCode? : Nat → Option Mode
  | 0 => some .numeric
  | 1 => some .alnum
  | 2 => some .byte
  | _ => none

/-! ## Lookups -/

/-- `band(v)` (R222). -/
def band (v : Nat) : Nat := if v ≤ 9 then 0 else if v ≤ 26 then 1 else 2

/-- EC_PROFILE(v, l), for v in 1..40 and l in 0..3 (R220); none where the table has no such entry. -/
def Config.profile? (cfg : Config) (v l : Nat) : Option Profile :=
  if v = 0 then none
  else
    match cfg.ecProfile[v - 1]? with
    | some row => row[l]?
    | none => none

/-- The entry of one mode in a row of the count-indicator table. -/
def CciRow.width (row : CciRow) : Mode → Nat
  | .numeric => row.numeric
  | .alnum => row.alnum
  | .byte => row.byte

/-- CCI_WIDTH(band, m) (R223). -/
def Config.cciWidth (cfg : Config) (bandIndex : Nat) (m : Mode) : Nat :=
  match bandIndex with
  | 0 => cfg.cciBand0.width m
  | 1 => cfg.cciBand1.width m
  | _ => cfg.cciBand2.width m

/-- MODE_IND(m), 4 bits (R224). -/
def Config.modeInd (cfg : Config) : Mode → BitVec 4
  | .numeric => cfg.modeIndNumeric
  | .alnum => modeIndAlnum
  | .byte => cfg.modeIndByte

/-- The entry of one mode in a row of the capacity table. -/
def CapacityRow.entry (row : CapacityRow) : Mode → Option Nat
  | .numeric => row.numeric
  | .alnum => row.alnum
  | .byte => row.byte

/-- The supplied CAPACITY(v, l, m), if it is supplied (R221, R227); a (v, l, m) outside the shape of the table is not (log
entry 16). -/
def Config.suppliedCapacity? (cfg : Config) (v l : Nat) (m : Mode) : Option Nat :=
  if v = 0 then none
  else
    match cfg.capacity[v - 1]? with
    | some rows =>
      match rows[l]? with
      | some row => row.entry m
      | none => none
    | none => none

/-! ## Payload length and the default capacity -/

/-- `payloadBits(m, n)` (45_segment.md R256). -/
def payloadBits (m : Mode) (n : Nat) : Nat :=
  match m with
  | .numeric => 10 * (n / 3) + (if n % 3 = 0 then 0 else if n % 3 = 1 then 4 else 7)
  | .alnum => 11 * (n / 2) + 6 * (n % 2)
  | .byte => 8 * n

/-- The greatest count whose payload has at most `bits` bits: the inverse of `payloadBits` (R256). -/
def longestPayload (m : Mode) (bits : Nat) : Nat :=
  match m with
  | .numeric => 3 * (bits / 10) + (if bits % 10 < 4 then 0 else if bits % 10 < 7 then 1 else 2)
  | .alnum => 2 * (bits / 11) + (if bits % 11 < 6 then 0 else 1)
  | .byte => bits / 8

/-- `maxChars` of a mode, a count-indicator width `w` and a number `d` of data codewords (R227): the greatest n with
n < 2^w and 4 + w + payloadBits(m, n) ≤ 8·d. Where no n meets the two, the value is 0 and check 3 of R226 refuses the
configuration (log entry 16). -/
def maxChars (m : Mode) (w d : Nat) : Nat := min (2 ^ w - 1) (longestPayload m (8 * d - (4 + w)))

/-- D(v, l), with 0 where the table has no entry; a configuration with such a gap is refused. -/
def Config.totalData (cfg : Config) (v l : Nat) : Nat :=
  match cfg.profile? v l with
  | some p => p.totalData
  | none => 0

/-- CAPACITY(v, l, m): the supplied value, or maxChars where none is supplied (R221, R227). -/
def Config.capacityOf (cfg : Config) (v l : Nat) (m : Mode) : Nat :=
  match cfg.suppliedCapacity? v l m with
  | some n => n
  | none => maxChars m (cfg.cciWidth (band v) m) (cfg.totalData v l)

/-! ## Checks on a supplied configuration (R226, R53) -/

/-- The versions 1..40, in the order the search tries them (46_assembler.md R284). -/
def versions : List Nat := List.range' 1 numVersions

/-- The level codes 0..3. -/
def levels : List Nat := List.range numLevels

/-- The three modes. -/
def modes : List Mode := [.numeric, .alnum, .byte]

/-- `b1 + b2`, the number of blocks of a profile (R220). -/
abbrev Profile.blocks (p : Profile) : Nat := p.g1Blocks + p.g2Blocks

/-- The table EC_PROFILE has an entry for every (v, l) with v in 1..40 and l in 0..3, and no other (R220). -/
def Config.shapeOk (cfg : Config) : Bool :=
  decide (cfg.ecProfile.length = numVersions) && cfg.ecProfile.all fun row => decide (row.length = numLevels)

/-- Check 1 of R226 on one profile. -/
def Profile.ok (cfg : Config) (p : Profile) : Bool :=
  decide (1 ≤ p.g1Blocks) && decide (1 ≤ p.g1Data) && (decide (p.g2Blocks = 0) || decide (1 ≤ p.g2Data)) &&
    decide (p.blocks ≤ 255) && decide (1 ≤ p.ecPerBlock) && decide (p.ecPerBlock ≤ cfg.rsMaxEc) &&
    decide (p.g1Blocks * p.g1Data + p.g2Blocks * p.g2Data = p.totalData)

/-- The bounds of R53 that concern one profile. -/
def Profile.fits (cfg : Config) (p : Profile) : Bool :=
  decide (p.totalData ≤ cfg.maxData) && decide (p.blocks * p.ecPerBlock ≤ cfg.maxEcall) &&
    decide (p.totalData + p.blocks * p.ecPerBlock ≤ cfg.maxFinal)

/-- Check 1 of R226 and the profile bounds of R53, on every entry of EC_PROFILE. -/
def Config.profilesOk (cfg : Config) : Bool :=
  cfg.ecProfile.all fun row => row.all fun p => p.ok cfg && p.fits cfg

/-- Check 2 of R226. -/
def Config.cciOk (cfg : Config) : Bool :=
  [0, 1, 2].all fun b => modes.all fun m => decide (1 ≤ cfg.cciWidth b m) && decide (cfg.cciWidth b m ≤ 32)

/-- Check 3 of R226 on one (v, l, m). -/
def Config.capacityFits (cfg : Config) (v l : Nat) (m : Mode) : Bool :=
  decide (cfg.capacityOf v l m < 2 ^ cfg.cciWidth (band v) m) &&
    decide (4 + cfg.cciWidth (band v) m + payloadBits m (cfg.capacityOf v l m) ≤ 8 * cfg.totalData v l)

/-- Check 3 of R226. -/
def Config.capacityOk (cfg : Config) : Bool :=
  versions.all fun v => levels.all fun l => modes.all fun m => cfg.capacityFits v l m

/-- The bounds of R53 that concern no table. -/
def Config.boundsOk (cfg : Config) : Bool :=
  decide (1 ≤ cfg.inMax) && decide (1 ≤ cfg.rsMaxMsg) && decide (1 ≤ cfg.rsMaxEc) && decide (cfg.rsMaxEc ≤ 254) &&
    decide (8 * cfg.maxData ≤ cfg.bsMaxBits)

/-- Every count that a 32-bit register of 10_state.md R20 must hold fits in it (log entry 7). -/
def Config.widthOk (cfg : Config) : Bool :=
  decide (cfg.inMax < 2 ^ 32) && decide (cfg.rsMaxMsg < 2 ^ 32) && decide (cfg.bsMaxBits < 2 ^ 32) &&
    decide (cfg.maxEcall < 2 ^ 32) && decide (cfg.maxFinal < 2 ^ 32)

/-- The configuration is well-formed (R226, R53). A machine with any other configuration is refused (D48). -/
def Config.wf (cfg : Config) : Bool :=
  cfg.boundsOk && cfg.widthOk && cfg.shapeOk && cfg.profilesOk && cfg.cciOk && cfg.capacityOk

end Sys2Proof
end

