-- ==== Sys2Proof/Machine/State.lean ====
section
/-! DEFINITION. The state of QRCORE (10_state.md, 20_memory.md R50), the reasons a step can stop, and the state after
reset (70_reset_and_hazards.md R450, R451). -/

namespace Sys2Proof.Machine

/-! ## Stops

A fault of QRCORE (60_exceptions.md R400) is NOT one of these: it is recorded in the state and the machine goes on. -/

/-- The machine stops. Every constructor stands for a state that no run from reset reaches, in which the pseudocode of
a command reads a table row or a buffer byte that does not exist (R52; log entry 8). All are safe. -/
inductive Fault where
  /-- RD_BIT with RD_SRC above 8: there is no such buffer. Safe. -/
  | readerSource
  /-- RD_BIT with RD_BIT above 7: a byte has no such bit. Safe. -/
  | readerBit
  /-- ASM_DATA with SEL_VALID = 1 and no selection: MODE, VERSION or LEVEL outside R20's values, or an INBUF the mode
  cannot represent. Safe. -/
  | noSelection
  /-- ASM_BLOCKS with DATA_VALID = 1 and no data stream: VERSION or LEVEL outside R20's values, or DATA shorter than
  the blocks. Safe. -/
  | noData
deriving DecidableEq, Repr

/-- No step is defined. -/
inductive Refusal where
  /-- An instruction with no meaning yet; raised by exec's arm. Safe. -/
  | notModelled (mnemonic : String)
  /-- The configuration fails R226 or R53, and is refused as a whole (D48); raised by step. Safe. -/
  | malformedConfiguration
deriving DecidableEq, Repr

/-! ## Memory -/

/-- The nine buffers (R50). BSBYTES is a view and holds nothing of its own (10_state.md R33). -/
inductive BufId where
  | inbuf
  | rsin
  | gen
  | rsout
  | synd
  | bsbytes
  | data
  | ecall
  | final
deriving DecidableEq, Repr

/-- The eight buffers that hold bytes: each a sequence, whose length is the buffer's length (R33; log entry 18). -/
structure Memory where
  inbuf : List Byte
  rsin  : List Byte
  gen   : List Byte
  rsout : List Byte
  synd  : List Byte
  data  : List Byte
  ecall : List Byte
  final : List Byte
deriving DecidableEq, Repr

/-- Every buffer empty (R450). -/
def Memory.empty : Memory := ⟨[], [], [], [], [], [], [], []⟩

/-! ## State -/

/-- One thing the host does (10_state.md R24, R450): it delivers a command word, or asserts the reset input. -/
inductive HostInput where
  | word (w : Command)
  | resetInput
deriving DecidableEq, Repr

/-- The registers of R20 under their names, the five elements of STATUS (R21), the bitstream (R30) and the buffers
(R50). Beside them stand the configuration, which is no state of the block and which no step writes (R34, R35; log
entry 1), and the inputs the host has still to deliver (log entry 3). -/
structure State where
  cfg        : Config
  inbox      : List HostInput
  res        : Word
  errinfo    : Word
  mode       : Word
  level      : Word
  version    : Word
  count      : Word
  genR       : Word
  bsLen      : Word
  rdSrc      : Word
  rdByte     : Word
  rdBit      : Word
  rdLen      : Word
  nblocks    : Word
  ecpb       : Word
  fault      : Bool
  selValid   : Bool
  dataValid  : Bool
  finalValid : Bool
  errcode    : BitVec 4
  bs         : List Bool
  mem        : Memory
deriving DecidableEq, Repr

/-- The reset state of a machine with configuration `cfg` and the inputs `inbox` still to come (R450, R451). -/
def State.resetWith (cfg : Config) (inbox : List HostInput) : State where
  cfg := cfg
  inbox := inbox
  res := 0
  errinfo := 0
  mode := 0
  level := 0
  version := 0
  count := 0
  genR := 0
  bsLen := 0
  rdSrc := 0
  rdByte := 0
  rdBit := 0
  rdLen := 0
  nblocks := 0
  ecpb := 0
  fault := false
  selValid := false
  dataValid := false
  finalValid := false
  errcode := 0
  bs := []
  mem := Memory.empty

/-- The machine right after reset (R450, R452): no input delivered, and the default configuration (log entry 2). -/
def State.reset : State := State.resetWith Config.standard []

end Sys2Proof.Machine
end

