-- ==== Sys2Proof/Machine/Flags.lean ====
section
/-! DEFINITION. STATUS (10_state.md R21): its assembled value, the fault codes of 60_exceptions.md R400, and the stage
flags. QRCORE has no condition codes (R25). -/

namespace Sys2Proof.Machine

/-- The nine kinds of fault (R400). No command raises `transcodingFailure` (D25). -/
inductive FaultCode where
  | invalidCharacter
  | capacityExceeded
  | domainError
  | transcodingFailure
  | invalidConfiguration
  | illegalCommand
  | bufferOverflow
  | indexOutOfRange
  | sequenceError
deriving DecidableEq, Repr

/-- The code of a fault in STATUS.ERRCODE (R400). -/
def FaultCode.code : FaultCode → BitVec 4
  | .invalidCharacter => 1
  | .capacityExceeded => 2
  | .domainError => 3
  | .transcodingFailure => 4
  | .invalidConfiguration => 5
  | .illegalCommand => 6
  | .bufferOverflow => 7
  | .indexOutOfRange => 8
  | .sequenceError => 9

/-- A flag as a 32-bit value. -/
def flagWord (b : Bool) : Word := if b then 1 else 0

/-- The value REG_READ 1 gives (40_host_access.md R102, 10_state.md R21); the reserved bits read 0. -/
def State.status (s : State) : Word :=
  flagWord s.fault ||| flagWord s.selValid <<< 1 ||| flagWord s.dataValid <<< 2 ||| flagWord s.finalValid <<< 3 |||
    s.errcode.zeroExtend 32 <<< 8

/-- A successful BUF_CLEAR 0 or BUF_PUSH 0 sets SEL_VALID to 0 (46_assembler.md R281); a write to RSIN does not. -/
def State.inputChanged (s : State) (b : BufId) : State :=
  match b with
  | .inbuf => { s with selValid := false }
  | _ => s

end Sys2Proof.Machine
end

