-- ==== Sys2Proof/Machine/Operands.lean ====
section
/-! DEFINITION. The operand codes of 30_encoding.md R74: what an 8-bit field names, and reading the register or the
buffer it names. -/

namespace Sys2Proof.Machine

/-- The buffer of a buffer id (R50), none for 9..255. -/
def BufId.ofCode? (b : Nat) : Option BufId :=
  match b with
  | 0 => some .inbuf
  | 1 => some .rsin
  | 2 => some .gen
  | 3 => some .rsout
  | 4 => some .synd
  | 5 => some .bsbytes
  | 6 => some .data
  | 7 => some .ecall
  | 8 => some .final
  | _ => none

/-- The buffer of a writable buffer id: 0 INBUF or 1 RSIN, none for 2..255 (R74). -/
def BufId.ofWritableCode? (b : Nat) : Option BufId :=
  match b with
  | 0 => some .inbuf
  | 1 => some .rsin
  | _ => none

/-- The capacity of a buffer in bytes (R50). -/
def bufCapacity (cfg : Config) : BufId → Nat
  | .inbuf => cfg.inMax
  | .rsin => cfg.rsMaxMsg
  | .gen => cfg.rsMaxEc + 1
  | .rsout => cfg.rsMaxEc
  | .synd => cfg.rsMaxEc
  | .bsbytes => ceilBytes cfg.bsMaxBits
  | .data => cfg.maxData
  | .ecall => cfg.maxEcall
  | .final => cfg.maxFinal

/-- The bytes a buffer holds; BSBYTES holds none of its own (R33). -/
def Memory.get (m : Memory) : BufId → List Byte
  | .inbuf => m.inbuf
  | .rsin => m.rsin
  | .gen => m.gen
  | .rsout => m.rsout
  | .synd => m.synd
  | .bsbytes => []
  | .data => m.data
  | .ecall => m.ecall
  | .final => m.final

/-- `BUF[b] <- bytes` (00_scope.md R11): the sequence and its length are replaced. BSBYTES is written by nothing (R50). -/
def Memory.put (m : Memory) (b : BufId) (bytes : List Byte) : Memory :=
  match b with
  | .inbuf => { m with inbuf := bytes }
  | .rsin => { m with rsin := bytes }
  | .gen => { m with gen := bytes }
  | .rsout => { m with rsout := bytes }
  | .synd => { m with synd := bytes }
  | .bsbytes => m
  | .data => { m with data := bytes }
  | .ecall => { m with ecall := bytes }
  | .final => { m with final := bytes }

/-- Every buffer is within its capacity (R50). A buffer is a plain sequence, so equal buffers are equal data. -/
def Memory.wf (cfg : Config) (m : Memory) : Bool :=
  [BufId.inbuf, .rsin, .gen, .rsout, .synd, .data, .ecall, .final].all fun b =>
    decide ((m.get b).length ≤ bufCapacity cfg b)

/-- What a read of buffer `b` sees: `finalize(BS)` for BSBYTES, the bytes held for the others (R31, R50). -/
def State.bufBytes (s : State) (b : BufId) : List Byte :=
  match b with
  | .bsbytes => finalize s.bs
  | b => s.mem.get b

/-- The length a command reads: ceil(BS_LEN/8) for BSBYTES, len(BUF[b]) for the others (40_host_access.md R106,
41_bitstream.md R135). -/
def State.bufLen (s : State) (b : BufId) : Nat :=
  match b with
  | .bsbytes => ceilBytes s.bsLen.toNat
  | b => (s.mem.get b).length

/-- `MemRead(b, i, 1)` (R11): byte i of buffer b, none at or above the buffer's length. -/
def State.readByte (s : State) (b : BufId) (i : Nat) : Option Byte := (s.bufBytes b)[i]?

/-- Register id n (10_state.md R20), none for 15..255. -/
def State.readReg (s : State) (n : Nat) : Option Word :=
  match n with
  | 0 => some s.res
  | 1 => some s.status
  | 2 => some s.errinfo
  | 3 => some s.mode
  | 4 => some s.level
  | 5 => some s.version
  | 6 => some s.count
  | 7 => some s.genR
  | 8 => some s.bsLen
  | 9 => some s.rdSrc
  | 10 => some s.rdByte
  | 11 => some s.rdBit
  | 12 => some s.rdLen
  | 13 => some s.nblocks
  | 14 => some s.ecpb
  | _ => none

/-- The degree or syndrome count r of RS_GEN, RS_ENC and RS_SYND is in 1..RS_MAX_EC (R74). -/
def degreeOk (cfg : Config) (r : Nat) : Bool := decide (1 ≤ r) && decide (r ≤ cfg.rsMaxEc)

/-- The level field of ASM_SELECT and ASM_ENCODE is in 0..3 (R74, D27). -/
def levelOk (l : Nat) : Bool := decide (l ≤ 3)

/-- The bit count of BS_WRITE is in 0..32 (R74, D17). -/
def bitCountOk (n : Nat) : Bool := decide (n ≤ bsWriteMax)

/-- What the mode field of ASM_SELECT and ASM_ENCODE asks for (R74, D26). -/
inductive ModeChoice where
  | explicit (m : Mode)
  | auto
deriving DecidableEq, Repr

/-- The mode field of ASM_SELECT and ASM_ENCODE: 0, 1, 2 or 0xFF, none for 3..254 (R74). -/
def ModeChoice.ofCode? (a : Nat) : Option ModeChoice :=
  if a = 0xFF then some .auto
  else
    match Mode.ofCode? a with
    | some m => some (.explicit m)
    | none => none

end Sys2Proof.Machine
end

