-- ==== Sys2Proof/Machine/Ops.lean ====
section
/-! DEFINITION. The shared operations: what a command's pseudocode can do, recording a fault (60_exceptions.md R402, the
block's only trap, R407), leaving the fault state (R408, R450), the fault-state gate (R403), the writes of the registers,
the bitstream and the buffers, and taking the host's next input. -/

namespace Sys2Proof.Machine

/-! ## A command's effect -/

/-- What the pseudocode of a command gives on a state (00_scope.md R12, R15): its writes committed at once, `raise
Fault(CODE, info)`, or a read of something that does not exist (log entry 8). -/
inductive Effect where
  | done (s : State)
  | raise (code : FaultCode) (info : Word)
  | undefined (why : Fault)
deriving DecidableEq, Repr

/-- Two stages of one command: the second reads the state the first computed (46_assembler.md R293). -/
def Effect.andThen (e : Effect) (next : State → Effect) : Effect :=
  match e with
  | .done s => next s
  | .raise code info => .raise code info
  | .undefined why => .undefined why

/-! ## Taking a fault, and the way out of the fault state -/

/-- `recordFault(CODE, info)` (R402): FAULT, ERRCODE and ERRINFO are written and nothing else. -/
def recordFault (code : FaultCode) (info : Word) (s : State) : State :=
  { s with fault := true, errcode := code.code, errinfo := info }

/-- Reset (R450), by RESET or by the reset input: the only way out of the fault state (R408). The configuration is no
state and stays; the inputs the host has not delivered are the host's and stay (log entry 5). -/
def applyReset (s : State) : State := State.resetWith s.cfg s.inbox

/-- A command's effect while FAULT = 0: its writes, or the fault recorded over the state it began in (R402, R403). -/
def commit (s : State) (e : Effect) : Host.Outcome State Fault Refusal :=
  match e with
  | .done t => .next t
  | .raise code info => .next (recordFault code info s)
  | .undefined why => .fault why

/-- The gate of R403 for every command but NOP, REG_READ and RESET: while FAULT = 1 the word is discarded. -/
def gated (s : State) (e : Effect) : Host.Outcome State Fault Refusal :=
  if s.fault then .next s else commit s e

/-- The gate of R403 for NOP, REG_READ and RESET: they run while FAULT = 1 too, and a raise then discards the word. -/
def ungated (s : State) (e : Effect) : Host.Outcome State Fault Refusal :=
  if s.fault then
    match e with
    | .done t => .next t
    | .raise _ _ => .next s
    | .undefined why => .fault why
  else commit s e

/-- An illegal word (30_encoding.md R76): IllegalCommand with ERRINFO = OP, discarded while FAULT = 1. -/
def illegalWord (op : Byte) (s : State) : Host.Outcome State Fault Refusal :=
  gated s (.raise .illegalCommand (zextByte op))

/-! ## Writes -/

/-- `RES <- v`. -/
def State.setRes (s : State) (v : Word) : State := { s with res := v }

/-- `RES <- v` for a length, a count or a flag, which fits 32 bits (log entry 7). -/
def State.setResNat (s : State) (v : Nat) : State := s.setRes (BitVec.ofNat 32 v)

/-- `BUF[b] <- bytes` (R11). -/
def State.setBuf (s : State) (b : BufId) (bytes : List Byte) : State := { s with mem := s.mem.put b bytes }

/-- `BS <- bits; BS_LEN <- len(BS)` (10_state.md R30, 41_bitstream.md R130, R131). -/
def State.setStream (s : State) (bits : List Bool) : State :=
  { s with bs := bits, bsLen := BitVec.ofNat 32 bits.length }

/-- Appending bits to BS, which raises BufferOverflow with info 5 where BS_MAX_BITS would be passed (41_bitstream.md
R131, 45_segment.md R262). -/
def appendBits (s : State) (bits : List Bool) : Effect :=
  if s.cfg.bsMaxBits < s.bs.length + bits.length then .raise .bufferOverflow 5
  else .done (s.setStream (s.bs ++ bits))

/-! ## The host's inputs -/

/-- The next input the host delivers, and the state with it taken; none while the host is silent (R24, R452). -/
def takeInput (s : State) : Option (HostInput × State) :=
  match s.inbox with
  | [] => none
  | input :: rest => some (input, { s with inbox := rest })

end Sys2Proof.Machine
end

