-- ==== Sys2Proof/Machine/Field.lean ====
section
/-! DEFINITION. GF(256) arithmetic (42_gf256.md R160-R167) and the field commands GF_ADD, GF_MUL, GF_DIV, GF_EXP, GF_LOG
(R170-R174). The tables are the ones the spec prints; that they follow R160 and R161 is stated of them (log entry 13). -/

namespace Sys2Proof.Machine

/-! ## Tables -/

/-- `xtime(v)` (R160): multiplication by x modulo PRIM_POLY. -/
def xtime (v : Byte) : Byte := (v <<< 1) ^^^ (if v.getLsbD 7 then primPoly.truncate 8 else 0)

/-- EXP as 42_gf256.md prints it: row i, column c holds EXP[16·i + c]. -/
def expRows : List (List Nat) := [
  [1, 2, 4, 8, 16, 32, 64, 128, 29, 58, 116, 232, 205, 135, 19, 38],
  [76, 152, 45, 90, 180, 117, 234, 201, 143, 3, 6, 12, 24, 48, 96, 192],
  [157, 39, 78, 156, 37, 74, 148, 53, 106, 212, 181, 119, 238, 193, 159, 35],
  [70, 140, 5, 10, 20, 40, 80, 160, 93, 186, 105, 210, 185, 111, 222, 161],
  [95, 190, 97, 194, 153, 47, 94, 188, 101, 202, 137, 15, 30, 60, 120, 240],
  [253, 231, 211, 187, 107, 214, 177, 127, 254, 225, 223, 163, 91, 182, 113, 226],
  [217, 175, 67, 134, 17, 34, 68, 136, 13, 26, 52, 104, 208, 189, 103, 206],
  [129, 31, 62, 124, 248, 237, 199, 147, 59, 118, 236, 197, 151, 51, 102, 204],
  [133, 23, 46, 92, 184, 109, 218, 169, 79, 158, 33, 66, 132, 21, 42, 84],
  [168, 77, 154, 41, 82, 164, 85, 170, 73, 146, 57, 114, 228, 213, 183, 115],
  [230, 209, 191, 99, 198, 145, 63, 126, 252, 229, 215, 179, 123, 246, 241, 255],
  [227, 219, 171, 75, 150, 49, 98, 196, 149, 55, 110, 220, 165, 87, 174, 65],
  [130, 25, 50, 100, 200, 141, 7, 14, 28, 56, 112, 224, 221, 167, 83, 166],
  [81, 162, 89, 178, 121, 242, 249, 239, 195, 155, 43, 86, 172, 69, 138, 9],
  [18, 36, 72, 144, 61, 122, 244, 245, 247, 243, 251, 235, 203, 139, 11, 22],
  [44, 88, 176, 125, 250, 233, 207, 131, 27, 54, 108, 216, 173, 71, 142]]

/-- LOG as 42_gf256.md prints it: row R, column C holds LOG[16·R + C]. LOG[0] does not exist (R161); no function reads
the 0 that fills its place. -/
def logRows : List (List Nat) := [
  [0, 0, 1, 25, 2, 50, 26, 198, 3, 223, 51, 238, 27, 104, 199, 75],
  [4, 100, 224, 14, 52, 141, 239, 129, 28, 193, 105, 248, 200, 8, 76, 113],
  [5, 138, 101, 47, 225, 36, 15, 33, 53, 147, 142, 218, 240, 18, 130, 69],
  [29, 181, 194, 125, 106, 39, 249, 185, 201, 154, 9, 120, 77, 228, 114, 166],
  [6, 191, 139, 98, 102, 221, 48, 253, 226, 152, 37, 179, 16, 145, 34, 136],
  [54, 208, 148, 206, 143, 150, 219, 189, 241, 210, 19, 92, 131, 56, 70, 64],
  [30, 66, 182, 163, 195, 72, 126, 110, 107, 58, 40, 84, 250, 133, 186, 61],
  [202, 94, 155, 159, 10, 21, 121, 43, 78, 212, 229, 172, 115, 243, 167, 87],
  [7, 112, 192, 247, 140, 128, 99, 13, 103, 74, 222, 237, 49, 197, 254, 24],
  [227, 165, 153, 119, 38, 184, 180, 124, 17, 68, 146, 217, 35, 32, 137, 46],
  [55, 63, 209, 91, 149, 188, 207, 205, 144, 135, 151, 178, 220, 252, 190, 97],
  [242, 86, 211, 171, 20, 42, 93, 158, 132, 60, 57, 83, 71, 109, 65, 162],
  [31, 45, 67, 216, 183, 123, 164, 118, 196, 23, 73, 236, 127, 12, 111, 246],
  [108, 161, 59, 82, 41, 157, 85, 170, 251, 96, 134, 177, 187, 204, 62, 90],
  [203, 89, 95, 176, 156, 169, 160, 81, 11, 245, 22, 235, 122, 117, 44, 215],
  [79, 174, 213, 233, 230, 231, 173, 232, 116, 214, 244, 234, 168, 80, 88, 175]]

/-- Entry k of a table of sixteen rows of sixteen. -/
def tableEntry (rows : List (List Nat)) (k : Nat) : Nat := (rows.getD (k / 16) []).getD (k % 16) 0

/-- EXP[i], for i in 0..254 (R160). -/
def expTable (i : Nat) : Byte := BitVec.ofNat 8 (tableEntry expRows i)

/-- LOG[a], for a in 1..255 (R161). -/
def logTable (a : Byte) : Nat := tableEntry logRows a.toNat

/-! ## Field functions -/

/-- `gf_add(a, b)` (R162). -/
def gfAdd (a b : Byte) : Byte := a ^^^ b

/-- `gf_mul(a, b)` (R163). -/
def gfMul (a b : Byte) : Byte :=
  if a = 0 ∨ b = 0 then 0 else expTable ((logTable a + logTable b) % 255)

/-- `gf_div(a, b)` (R164); none is the DomainError of b = 0. -/
def gfDiv (a b : Byte) : Option Byte :=
  if b = 0 then none
  else if a = 0 then some 0
  else some (expTable ((logTable a + 255 - logTable b) % 255))

/-- `gf_exp(i)` (R165). -/
def gfExp (i : Nat) : Byte := expTable (i % 255)

/-- `gf_log(a)` (R166); none is the DomainError of a = 0. -/
def gfLog (a : Byte) : Option Nat := if a = 0 then none else some (logTable a)

/-! ## Commands -/

/-- GF_ADD (R170). -/
def execGfAdd (a b : Byte) (s : State) : Host.Outcome State Fault Refusal :=
  gated s (.done (s.setRes (zextByte (gfAdd a b))))

/-- GF_MUL (R171). -/
def execGfMul (a b : Byte) (s : State) : Host.Outcome State Fault Refusal :=
  gated s (.done (s.setRes (zextByte (gfMul a b))))

/-- The pseudocode of GF_DIV (R172). -/
def gfDivEffect (a b : Byte) (s : State) : Effect :=
  match gfDiv a b with
  | some q => .done (s.setRes (zextByte q))
  | none => .raise .domainError 0

/-- GF_DIV (R172). -/
def execGfDiv (a b : Byte) (s : State) : Host.Outcome State Fault Refusal := gated s (gfDivEffect a b s)

/-- GF_EXP (R173). -/
def execGfExp (i : Byte) (s : State) : Host.Outcome State Fault Refusal :=
  gated s (.done (s.setRes (zextByte (gfExp i.toNat))))

/-- The pseudocode of GF_LOG (R174). -/
def gfLogEffect (a : Byte) (s : State) : Effect :=
  match gfLog a with
  | some k => .done (s.setResNat k)
  | none => .raise .domainError 0

/-- GF_LOG (R174). -/
def execGfLog (a : Byte) (s : State) : Host.Outcome State Fault Refusal := gated s (gfLogEffect a s)

end Sys2Proof.Machine
end

