-- ==== Sys2Proof/Machine/ReedSolomon.lean ====
section
/-! DEFINITION. Polynomials over GF(256) and the Reed-Solomon functions (43_reed_solomon.md R190-R194), and the commands
RS_GEN, RS_ENC, RS_SYND (R200-R202). A polynomial is a list of field elements, highest-degree coefficient first (R190). -/

namespace Sys2Proof.Machine

/-! ## Polynomials -/

/-- Coefficient-wise sum of two sequences aligned at their FIRST coefficient; the longer one's rest is kept. -/
def addLeading : List Byte → List Byte → List Byte
  | [], q => q
  | p, [] => p
  | a :: p, b :: q => gfAdd a b :: addLeading p q

/-- `polyMultiply(a, b)` (R191), for len(a) ≥ 1 and len(b) ≥ 1: the convolution, one coefficient of `a` after the other
(log entry 19). -/
def polyMultiply : List Byte → List Byte → List Byte
  | [], _ => []
  | [a], q => q.map (gfMul a)
  | a :: p, q => addLeading (q.map (gfMul a)) (0 :: polyMultiply p q)

/-- The running polynomial of `buildGenerator` after the turns j = 1..k of its loop (R192). -/
def generatorAfter : Nat → List Byte
  | 0 => [1, 1]
  | j + 1 => polyMultiply (generatorAfter j) [1, gfExp (j + 1)]

/-- `buildGenerator(r)`, for r ≥ 1 (R192). -/
def buildGenerator (r : Nat) : List Byte := generatorAfter (r - 1)

/-- The turns of the division loop of R193 that are left. Each takes the leading coefficient c off the running message
and adds g[1..r]·c to the window behind it. The coefficient itself becomes 0, since g[0] = 1, and is never read again
(log entry 19). -/
def divideTurns (gRest : List Byte) : Nat → List Byte → List Byte
  | 0, m => m
  | _ + 1, [] => []
  | k + 1, c :: m => divideTurns gRest k (if c = 0 then m else addLeading m (gRest.map fun g => gfMul g c))

/-- `generateEC(data, r)`, for r ≥ 1 (R193). -/
def generateEC (data : List Byte) (r : Nat) : List Byte :=
  divideTurns (buildGenerator r).tail data.length (data ++ zeroBytes r)

/-- Horner's rule at x, highest degree first (R194). -/
def evalPoly (c : List Byte) (x : Byte) : Byte := c.foldl (fun acc b => gfAdd (gfMul acc x) b) 0

/-- `syndromes(c, r)` (R194): S[j] = c(exp(j)). -/
def syndromes (c : List Byte) (r : Nat) : List Byte := (List.range r).map fun j => evalPoly c (gfExp j)

/-! ## Commands -/

/-- The pseudocode of RS_GEN (R200). -/
def rsGenEffect (r : Byte) (s : State) : Effect :=
  if degreeOk s.cfg r.toNat then
    .done ({ s.setBuf .gen (buildGenerator r.toNat) with genR := zextByte r }.setResNat (r.toNat + 1))
  else .raise .illegalCommand 0x30

/-- RS_GEN (R200). -/
def execRsGen (r : Byte) (s : State) : Host.Outcome State Fault Refusal := gated s (rsGenEffect r s)

/-- The pseudocode of RS_ENC (R201). -/
def rsEncEffect (r : Byte) (s : State) : Effect :=
  if degreeOk s.cfg r.toNat then
    .done ((s.setBuf .rsout (generateEC s.mem.rsin r.toNat)).setRes (zextByte r))
  else .raise .illegalCommand 0x31

/-- RS_ENC (R201). -/
def execRsEnc (r : Byte) (s : State) : Host.Outcome State Fault Refusal := gated s (rsEncEffect r s)

/-- The pseudocode of RS_SYND (R202). -/
def rsSyndEffect (r : Byte) (s : State) : Effect :=
  if degreeOk s.cfg r.toNat then
    .done ((s.setBuf .synd (syndromes s.mem.rsin r.toNat)).setRes
      (flagWord ((syndromes s.mem.rsin r.toNat).all fun x => x == 0)))
  else .raise .illegalCommand 0x32

/-- RS_SYND (R202). -/
def execRsSynd (r : Byte) (s : State) : Host.Outcome State Fault Refusal := gated s (rsSyndEffect r s)

end Sys2Proof.Machine
end

