-- ==== Sys2Proof/Machine/Segment.lean ====
section
/-! DEFINITION. Character sets, packers and mode selection (45_segment.md R250-R257), and the commands SEG_CHECK,
SEG_COUNT, SEG_WRITE, SEG_AUTO (R260-R263). A text is a sequence of bytes. -/

namespace Sys2Proof.Machine

/-! ## Character sets (R250) -/

/-- The value of a numeric character, none for any other byte. -/
def numericValue (c : Byte) : Option Nat :=
  if 0x30 ≤ c.toNat ∧ c.toNat ≤ 0x39 then some (c.toNat - 0x30) else none

/-- The value of an alphanumeric character, none for any other byte. -/
def alnumValue (c : Byte) : Option Nat :=
  if 0x30 ≤ c.toNat ∧ c.toNat ≤ 0x39 then some (c.toNat - 0x30)
  else if 0x41 ≤ c.toNat ∧ c.toNat ≤ 0x5A then some (c.toNat - 0x41 + 10)
  else
    match c.toNat with
    | 0x20 => some 36
    | 0x24 => some 37
    | 0x25 => some 38
    | 0x2A => some 39
    | 0x2B => some 40
    | 0x2D => some 41
    | 0x2E => some 42
    | 0x2F => some 43
    | 0x3A => some 44
    | _ => none

/-- The byte is a character of the mode (R250); every byte is a byte-mode character. -/
def isCharOf (m : Mode) (c : Byte) : Bool :=
  match m with
  | .numeric => (numericValue c).isSome
  | .alnum => (alnumValue c).isSome
  | .byte => true

/-- `firstInvalid(m, t)` (R252): the least index of a byte that is no character of the mode. -/
def firstInvalid (m : Mode) : List Byte → Option Nat
  | [] => none
  | c :: t => if isCharOf m c then (firstInvalid m t).map (· + 1) else some 0

/-- `representable(m, t)` (R252). -/
def representable (m : Mode) (t : List Byte) : Bool := (firstInvalid m t).isNone

/-! ## Packers -/

/-- d(i): the value of a digit (R253). -/
def digit (c : Byte) : Nat := c.toNat - 0x30

/-- `packNumeric(t)`, for a representable t (R253). -/
def packNumeric : List Byte → List Bool
  | [] => []
  | [c0] => bitsOf (digit c0) 4
  | [c0, c1] => bitsOf (10 * digit c0 + digit c1) 7
  | c0 :: c1 :: c2 :: t => bitsOf (100 * digit c0 + 10 * digit c1 + digit c2) 10 ++ packNumeric t

/-- v(i): the value of an alphanumeric character of a representable text (R254). -/
def alnum (c : Byte) : Nat := (alnumValue c).getD 0

/-- `packAlnum(t)`, for a representable t (R254). -/
def packAlnum : List Byte → List Bool
  | [] => []
  | [c0] => bitsOf (alnum c0) 6
  | c0 :: c1 :: t => bitsOf (45 * alnum c0 + alnum c1) 11 ++ packAlnum t

/-- `packByte(t)` (R255). -/
def packByteMode : List Byte → List Bool
  | [] => []
  | c :: t => bitsOf c.toNat 8 ++ packByteMode t

/-- `payload(m, t)` (R255). -/
def payload (m : Mode) (t : List Byte) : List Bool :=
  match m with
  | .numeric => packNumeric t
  | .alnum => packAlnum t
  | .byte => packByteMode t

/-- `autoMode(t)` (R257). -/
def autoMode (t : List Byte) : Mode :=
  if representable .numeric t then .numeric else if representable .alnum t then .alnum else .byte

/-! ## Commands -/

/-- The pseudocode of SEG_CHECK (R260). -/
def segCheckEffect (m : Byte) (s : State) : Effect :=
  match Mode.ofCode? m.toNat with
  | some mode => .done (s.setRes (flagWord (representable mode s.mem.inbuf)))
  | none => .raise .invalidConfiguration (zextByte m)

/-- SEG_CHECK (R260). -/
def execSegCheck (m : Byte) (s : State) : Host.Outcome State Fault Refusal := gated s (segCheckEffect m s)

/-- The pseudocode of SEG_COUNT (R261): the count of R251, with no representability check. -/
def segCountEffect (m : Byte) (s : State) : Effect :=
  match Mode.ofCode? m.toNat with
  | some _ => .done (s.setResNat s.mem.inbuf.length)
  | none => .raise .invalidConfiguration (zextByte m)

/-- SEG_COUNT (R261). -/
def execSegCount (m : Byte) (s : State) : Host.Outcome State Fault Refusal := gated s (segCountEffect m s)

/-- The pseudocode of SEG_WRITE (R262). -/
def segWriteEffect (m : Byte) (s : State) : Effect :=
  match Mode.ofCode? m.toNat with
  | none => .raise .invalidConfiguration (zextByte m)
  | some mode =>
    match firstInvalid mode s.mem.inbuf with
    | some p => .raise .invalidCharacter (BitVec.ofNat 32 p)
    | none =>
      (appendBits s (payload mode s.mem.inbuf)).andThen fun t =>
        .done (t.setResNat (payload mode s.mem.inbuf).length)

/-- SEG_WRITE (R262). -/
def execSegWrite (m : Byte) (s : State) : Host.Outcome State Fault Refusal := gated s (segWriteEffect m s)

/-- SEG_AUTO (R263). -/
def execSegAuto (s : State) : Host.Outcome State Fault Refusal :=
  gated s (.done (s.setResNat (autoMode s.mem.inbuf).code))

end Sys2Proof.Machine
end

