-- ==== Sys2Proof/Machine/Assembler.lean ====
section
/-! DEFINITION. The codeword assembler (46_assembler.md): its functions (R284-R287) and the commands ASM_SELECT,
ASM_DATA, ASM_BLOCKS, ASM_ENCODE (R290-R293). -/

namespace Sys2Proof.Machine

/-! ## Functions -/

/-- `findVersion(m, l, n)` (R284): the least version 1..40 with CAPACITY(v, l, m) ≥ n; none is CapacityExceeded. -/
def findVersion (cfg : Config) (m : Mode) (l n : Nat) : Option Nat :=
  versions.find? fun v => decide (n ≤ cfg.capacityOf v l m)

/-- The mode indicator, the count indicator (its low w bits, D33) and the payload (R285). -/
def headerAndPayload (cfg : Config) (m : Mode) (v n : Nat) (t : List Byte) : List Bool :=
  bitsOf (cfg.modeInd m).toNat 4 ++ bitsOf n (cfg.cciWidth (band v) m) ++ payload m t

/-- The terminator: up to 4 zero bits, clipped to the bits still needed (R285). -/
def addTerminator (cap : Nat) (bits : List Bool) : List Bool := bits ++ zeroBits (min 4 (cap - bits.length))

/-- Zero bits up to the next byte boundary (R285). -/
def padToByte (bits : List Bool) : List Bool := bits ++ zeroBits ((8 - bits.length % 8) % 8)

/-- `count` pad bytes, the first of them number k: PAD0 for an even number, PAD1 for an odd one (R285). -/
def padBytes (cfg : Config) : Nat → Nat → List Bool
  | 0, _ => []
  | count + 1, k => bitsOf (if k % 2 = 0 then cfg.pad0 else cfg.pad1).toNat 8 ++ padBytes cfg count (k + 1)

/-- Pad bytes until `cap` bits are reached (R285); `cap` and the length are multiples of 8 here (log entry 19). -/
def padToCapacity (cfg : Config) (cap : Nat) (bits : List Bool) : List Bool :=
  bits ++ padBytes cfg ((cap - bits.length) / 8) 0

/-- `assembleData()` (R285) with profile total D = `d`; none is its CapacityExceeded. -/
def assembleData (cfg : Config) (m : Mode) (v d n : Nat) (t : List Byte) : Option (List Bool) :=
  if 8 * d < (headerAndPayload cfg m v n t).length then none
  else some (padToCapacity cfg (8 * d) (padToByte (addTerminator (8 * d) (headerAndPayload cfg m v n t))))

/-- `count` blocks of `size` bytes each, in order from the front of `data` (R286). -/
def takeBlocks : Nat → Nat → List Byte → List (List Byte)
  | 0, _, _ => []
  | count + 1, size, data => data.take size :: takeBlocks count size (data.drop size)

/-- `splitBlocks(data)` (R286). -/
def splitBlocks (p : Profile) (data : List Byte) : List (List Byte) :=
  takeBlocks p.g1Blocks p.g1Data data ++ takeBlocks p.g2Blocks p.g2Data (data.drop (p.g1Blocks * p.g1Data))

/-- `ecBlocks(blocks)` (R286). -/
def ecBlocks (p : Profile) (blocks : List (List Byte)) : List (List Byte) :=
  blocks.map fun block => generateEC block p.ecPerBlock

/-- L, the length of the longest block, 0 if there is none (R287). -/
def longest : List (List Byte) → Nat
  | [] => 0
  | block :: blocks => max block.length (longest blocks)

/-- `interleave(blocks)` (R287): byte i of every block that has one, in group order, for i = 0..L-1. -/
def interleave (blocks : List (List Byte)) : List Byte :=
  (List.range (longest blocks)).flatMap fun i => blocks.filterMap fun block => block[i]?

/-- `final(blocks, ecs)` (R287). -/
def finalStream (blocks ecs : List (List Byte)) : List Byte := interleave blocks ++ interleave ecs

/-! ## Stages -/

/-- The pseudocode of ASM_SELECT (R290). -/
def selectStage (a l : Byte) (s : State) : Effect :=
  match ModeChoice.ofCode? a.toNat with
  | none => .raise .invalidConfiguration (zextByte a)
  | some choice =>
    if levelOk l.toNat then
      let t := s.mem.inbuf
      let m := match choice with
        | .auto => autoMode t
        | .explicit m => m
      match firstInvalid m t with
      | some p => .raise .invalidCharacter (BitVec.ofNat 32 p)
      | none =>
        match findVersion s.cfg m l.toNat t.length with
        | none => .raise .capacityExceeded (BitVec.ofNat 32 t.length)
        | some v =>
          .done
            { s with
              mode := BitVec.ofNat 32 m.code
              level := zextByte l
              count := BitVec.ofNat 32 t.length
              version := BitVec.ofNat 32 v
              selValid := true
              dataValid := false
              finalValid := false
              mem := ((s.mem.put .data []).put .ecall []).put .final []
              res := BitVec.ofNat 32 v }
    else .raise .invalidConfiguration (zextByte l)

/-- The pseudocode of ASM_DATA (R291). A selection whose table row does not exist, or a text its mode cannot represent,
is in no state a run reaches (log entry 8). -/
def dataStage (s : State) : Effect :=
  if s.selValid then
    match Mode.ofCode? s.mode.toNat, s.cfg.profile? s.version.toNat s.level.toNat with
    | some m, some p =>
      if representable m s.mem.inbuf then
        match assembleData s.cfg m s.version.toNat p.totalData s.count.toNat s.mem.inbuf with
        | none => .raise .capacityExceeded s.count
        | some bits =>
          .done
            { s.setStream bits with
              dataValid := true
              finalValid := false
              mem := ((s.mem.put .data (finalize bits)).put .ecall []).put .final []
              res := BitVec.ofNat 32 p.totalData }
      else .undefined .noSelection
    | _, _ => .undefined .noSelection
  else .raise .sequenceError 0x51

/-- The pseudocode of ASM_BLOCKS (R292). A data stream shorter than its blocks is in no state a run reaches (log entry
8). -/
def blocksStage (s : State) : Effect :=
  if s.dataValid then
    match s.cfg.profile? s.version.toNat s.level.toNat with
    | none => .undefined .noData
    | some p =>
      if s.mem.data.length < p.g1Blocks * p.g1Data + p.g2Blocks * p.g2Data then .undefined .noData
      else
        let blocks := splitBlocks p s.mem.data
        let ecs := ecBlocks p blocks
        .done
          { s with
            mem := (s.mem.put .ecall ecs.flatten).put .final (finalStream blocks ecs)
            nblocks := BitVec.ofNat 32 p.blocks
            ecpb := BitVec.ofNat 32 p.ecPerBlock
            finalValid := true
            res := BitVec.ofNat 32 (p.totalData + p.blocks * p.ecPerBlock) }
  else .raise .sequenceError 0x52

/-! ## Commands -/

/-- ASM_SELECT (R290). -/
def execAsmSelect (a l : Byte) (s : State) : Host.Outcome State Fault Refusal := gated s (selectStage a l s)

/-- ASM_DATA (R291). -/
def execAsmData (s : State) : Host.Outcome State Fault Refusal := gated s (dataStage s)

/-- ASM_BLOCKS (R292). -/
def execAsmBlocks (s : State) : Host.Outcome State Fault Refusal := gated s (blocksStage s)

/-- ASM_ENCODE (R293): the three stages as one command, each reading the state the one before it computed. -/
def execAsmEncode (a l : Byte) (s : State) : Host.Outcome State Fault Refusal :=
  gated s (((selectStage a l s).andThen dataStage).andThen blocksStage)

end Sys2Proof.Machine
end

