-- ==== Sys2Proof/Machine/Bitstream.lean ====
section
/-! DEFINITION. The bitstream writer and reader commands (41_bitstream.md R130-R137): BS_CLEAR, BS_WRITE, BS_TOTAL,
BS_FINALIZE, RD_INIT, RD_HAS, RD_BIT. -/

namespace Sys2Proof.Machine

/-- BS_CLEAR (R130). -/
def execBsClear (s : State) : Host.Outcome State Fault Refusal := gated s (.done (s.setStream []))

/-- `writeUInt(value, n)` (R131): the n low bits of value, most-significant first. -/
def writeUInt (value : Word) (n : Nat) (s : State) : Effect := appendBits s (bitsOf value.toNat n)

/-- The pseudocode of BS_WRITE (R132). -/
def bsWriteEffect (n : Byte) (value : Word) (s : State) : Effect :=
  if bitCountOk n.toNat then writeUInt value n.toNat s else .raise .illegalCommand 0x11

/-- BS_WRITE (R132). -/
def execBsWrite (n : Byte) (value : Word) (s : State) : Host.Outcome State Fault Refusal :=
  gated s (bsWriteEffect n value s)

/-- BS_TOTAL (R133). -/
def execBsTotal (s : State) : Host.Outcome State Fault Refusal := gated s (.done (s.setRes s.bsLen))

/-- BS_FINALIZE (R134): only the size; the bytes are the view BSBYTES. -/
def execBsFinalize (s : State) : Host.Outcome State Fault Refusal :=
  gated s (.done (s.setResNat (ceilBytes s.bsLen.toNat)))

/-- The pseudocode of RD_INIT (R135). -/
def rdInitEffect (b : Byte) (s : State) : Effect :=
  match BufId.ofCode? b.toNat with
  | some buf =>
    .done { s with rdSrc := zextByte b, rdByte := 0, rdBit := 0, rdLen := BitVec.ofNat 32 (s.bufLen buf) }
  | none => .raise .illegalCommand 0x14

/-- RD_INIT (R135). -/
def execRdInit (b : Byte) (s : State) : Host.Outcome State Fault Refusal := gated s (rdInitEffect b s)

/-- RD_HAS (R137): the answer looks at RD_LEN, not at the source. -/
def execRdHas (s : State) : Host.Outcome State Fault Refusal :=
  gated s (.done (s.setRes (flagWord (decide (s.rdByte.toNat < s.rdLen.toNat)))))

/-- The cursor after a pop (R136): the next bit of the byte, or bit 0 of the next byte. -/
def State.advanceReader (s : State) : State :=
  if s.rdBit = 7 then { s with rdBit := 0, rdByte := s.rdByte + 1 } else { s with rdBit := s.rdBit + 1 }

/-- Bit RD_BIT of a byte, counted from its most-significant bit: (v >> (7 - RD_BIT)) AND 1 (R136). -/
def bitOfByte (v : Byte) (bit : Nat) : Word := zextByte (v >>> (7 - bit)) &&& 1

/-- The pseudocode of RD_BIT (R136). -/
def rdBitEffect (s : State) : Effect :=
  match BufId.ofCode? s.rdSrc.toNat with
  | none => .undefined .readerSource
  | some src =>
    if s.rdLen.toNat ≤ s.rdByte.toNat then .raise .indexOutOfRange s.rdSrc
    else
      match s.readByte src s.rdByte.toNat with
      | none => .raise .indexOutOfRange s.rdSrc
      | some v =>
        if 7 < s.rdBit.toNat then .undefined .readerBit
        else .done ((s.setRes (bitOfByte v s.rdBit.toNat)).advanceReader)

/-- RD_BIT (R136). -/
def execRdBit (s : State) : Host.Outcome State Fault Refusal := gated s (rdBitEffect s)

end Sys2Proof.Machine
end

