-- ==== Sys2Proof/Machine/HostAccess.lean ====
section
/-! DEFINITION. The host access commands (40_host_access.md R100-R106): NOP, RESET, REG_READ, BUF_CLEAR, BUF_PUSH,
BUF_READ, BUF_LEN. -/

namespace Sys2Proof.Machine

/-- NOP (R100): no effect, in the fault state too. -/
def execNop (s : State) : Host.Outcome State Fault Refusal := ungated s (.done s)

/-- RESET (R101): the reset of R450, in the fault state too. -/
def execReset (s : State) : Host.Outcome State Fault Refusal := ungated s (.done (applyReset s))

/-- The pseudocode of REG_READ (R102). -/
def regReadEffect (n : Byte) (s : State) : Effect :=
  match s.readReg n.toNat with
  | some v => .done (s.setRes v)
  | none => .raise .illegalCommand 0x02

/-- REG_READ (R102); in the fault state too. -/
def execRegRead (n : Byte) (s : State) : Host.Outcome State Fault Refusal := ungated s (regReadEffect n s)

/-- The pseudocode of BUF_CLEAR (R103). -/
def bufClearEffect (b : Byte) (s : State) : Effect :=
  match BufId.ofWritableCode? b.toNat with
  | some buf => .done ((s.setBuf buf []).inputChanged buf)
  | none => .raise .illegalCommand 0x03

/-- BUF_CLEAR (R103). -/
def execBufClear (b : Byte) (s : State) : Host.Outcome State Fault Refusal := gated s (bufClearEffect b s)

/-- The pseudocode of BUF_PUSH (R104). -/
def bufPushEffect (b v : Byte) (s : State) : Effect :=
  match BufId.ofWritableCode? b.toNat with
  | some buf =>
    if (s.mem.get buf).length = bufCapacity s.cfg buf then .raise .bufferOverflow (zextByte b)
    else .done ((s.setBuf buf (s.mem.get buf ++ [v])).inputChanged buf)
  | none => .raise .illegalCommand 0x04

/-- BUF_PUSH (R104). -/
def execBufPush (b v : Byte) (s : State) : Host.Outcome State Fault Refusal := gated s (bufPushEffect b v s)

/-- The pseudocode of BUF_READ (R105). -/
def bufReadEffect (b : Byte) (i : Word) (s : State) : Effect :=
  match BufId.ofCode? b.toNat with
  | some buf =>
    match s.readByte buf i.toNat with
    | some v => .done (s.setRes (zextByte v))
    | none => .raise .indexOutOfRange (zextByte b)
  | none => .raise .illegalCommand 0x05

/-- BUF_READ (R105). -/
def execBufRead (b : Byte) (i : Word) (s : State) : Host.Outcome State Fault Refusal := gated s (bufReadEffect b i s)

/-- The pseudocode of BUF_LEN (R106). -/
def bufLenEffect (b : Byte) (s : State) : Effect :=
  match BufId.ofCode? b.toNat with
  | some buf => .done (s.setResNat (s.bufLen buf))
  | none => .raise .illegalCommand 0x06

/-- BUF_LEN (R106). -/
def execBufLen (b : Byte) (s : State) : Host.Outcome State Fault Refusal := gated s (bufLenEffect b s)

end Sys2Proof.Machine
end

