-- ==== Sys2Proof/Machine/Dispatch.lean ====
section
/-! DEFINITION. exec: one arm per command of 30_encoding.md R75, each one call of its meaning. -/

namespace Sys2Proof.Machine

def exec (i : Instr) (s : State) : Host.Outcome State Fault Refusal :=
  match i with
  | .nop => Sys2Proof.Machine.execNop s
  | .reset => Sys2Proof.Machine.execReset s
  | .regRead n => Sys2Proof.Machine.execRegRead n s
  | .bufClear b => Sys2Proof.Machine.execBufClear b s
  | .bufPush b v => Sys2Proof.Machine.execBufPush b v s
  | .bufRead b index => Sys2Proof.Machine.execBufRead b index s
  | .bufLen b => Sys2Proof.Machine.execBufLen b s
  | .bsClear => Sys2Proof.Machine.execBsClear s
  | .bsWrite n value => Sys2Proof.Machine.execBsWrite n value s
  | .bsTotal => Sys2Proof.Machine.execBsTotal s
  | .bsFinalize => Sys2Proof.Machine.execBsFinalize s
  | .rdInit b => Sys2Proof.Machine.execRdInit b s
  | .rdHas => Sys2Proof.Machine.execRdHas s
  | .rdBit => Sys2Proof.Machine.execRdBit s
  | .gfAdd a b => Sys2Proof.Machine.execGfAdd a b s
  | .gfMul a b => Sys2Proof.Machine.execGfMul a b s
  | .gfDiv a b => Sys2Proof.Machine.execGfDiv a b s
  | .gfExp e => Sys2Proof.Machine.execGfExp e s
  | .gfLog a => Sys2Proof.Machine.execGfLog a s
  | .rsGen r => Sys2Proof.Machine.execRsGen r s
  | .rsEnc r => Sys2Proof.Machine.execRsEnc r s
  | .rsSynd r => Sys2Proof.Machine.execRsSynd r s
  | .segCheck m => Sys2Proof.Machine.execSegCheck m s
  | .segCount m => Sys2Proof.Machine.execSegCount m s
  | .segWrite m => Sys2Proof.Machine.execSegWrite m s
  | .segAuto => Sys2Proof.Machine.execSegAuto s
  | .asmSelect a l => Sys2Proof.Machine.execAsmSelect a l s
  | .asmData => Sys2Proof.Machine.execAsmData s
  | .asmBlocks => Sys2Proof.Machine.execAsmBlocks s
  | .asmEncode a l => Sys2Proof.Machine.execAsmEncode a l s

end Sys2Proof.Machine
end

