-- ==== Sys2Proof/Machine/Step.lean ====
section
/-! DEFINITION. One step of the machine (60_exceptions.md R403): the host's next input, decoded and executed. -/

namespace Sys2Proof.Machine

/-- One step. A configuration that fails R226 or R53 is refused as a whole (D48). While the host is silent the block
holds its state (60_exceptions.md R416, 70_reset_and_hazards.md R452). The reset input has the effect of R450. A command
word is handled as `step(w)` of R403 says: an illegal word by `illegalWord`, a command by `exec`, each with the gate of
R403 inside it. -/
def step (s : State) : Host.Outcome State Fault Refusal :=
  if s.cfg.wf then
    match takeInput s with
    | none => .next s
    | some (.resetInput, t) => .next (applyReset t)
    | some (.word w, t) =>
      match decode w with
      | .illegal _ => illegalWord (opField w) t
      | .command i => exec i t
  else .refused .malformedConfiguration

/-- `s` with the `nbits` low bits of `w`, as one command word, delivered as the host's very next input (log entry 3). -/
def State.withFetchWord (s : State) (nbits w : Nat) : State :=
  { s with inbox := .word (BitVec.ofNat 64 (w % 2 ^ nbits)) :: s.inbox }

end Sys2Proof.Machine
end

