-- ==== Sys2Proof/Safety.lean ====
section
/-! DEFINITION. What counts as a safe state and a safe run of QRCORE, in the terms claims use: no fault recorded, and the
invariant of the state that 10_state.md R20, R22, R30, R32, 20_memory.md R50 and 46_assembler.md R281-R283 give. -/

namespace Sys2Proof.Machine

/-- No fault is recorded (10_state.md R21): commands are executed, not discarded. -/
abbrev State.Healthy (s : State) : Prop := s.fault = false

/-! ## The invariant, part by part -/

/-- FAULT = 0 if and only if ERRCODE = 0 (R22); ERRCODE is never 4 and never 10..15 (60_exceptions.md R400). -/
abbrev State.FaultLegal (s : State) : Prop :=
  (s.fault = false ↔ s.errcode = 0) ∧ s.errcode ≠ FaultCode.transcodingFailure.code ∧ s.errcode.toNat ≤ 9

/-- BS_LEN always equals len(BS), and BS is within its capacity (R30). -/
abbrev State.StreamLegal (s : State) : Prop :=
  s.bsLen.toNat = s.bs.length ∧ s.bs.length ≤ s.cfg.bsMaxBits

/-- Every buffer is within its capacity (R50). -/
abbrev State.MemoryLegal (s : State) : Prop := s.mem.wf s.cfg = true

/-- The reader's registers have the values of R20, and the cursor is inside the source or at its end (R32). -/
def State.ReaderLegal (s : State) : Prop :=
  (∃ src, BufId.ofCode? s.rdSrc.toNat = some src ∧ s.rdLen.toNat ≤ bufCapacity s.cfg src) ∧
    s.rdByte.toNat ≤ s.rdLen.toNat ∧ s.rdBit.toNat ≤ 7 ∧ (s.rdByte = s.rdLen → s.rdBit = 0)

/-- GEN holds the generator of degree GEN_R, or nothing while GEN_R = 0 (R20, 43_reed_solomon.md R200). -/
abbrev State.GeneratorLegal (s : State) : Prop :=
  s.genR.toNat ≤ s.cfg.rsMaxEc ∧ s.mem.gen = if s.genR = 0 then [] else buildGenerator s.genR.toNat

/-- MODE, LEVEL, VERSION, COUNT, NBLOCKS and ECPB have the values of R20. -/
abbrev State.SelectionRegistersLegal (s : State) : Prop :=
  s.mode.toNat ≤ 2 ∧ s.level.toNat ≤ 3 ∧ s.version.toNat ≤ 40 ∧ s.count.toNat ≤ s.cfg.inMax ∧
    s.nblocks.toNat ≤ 255 ∧ s.ecpb.toNat ≤ s.cfg.rsMaxEc

/-- SEL_VALID = 1 means that MODE, LEVEL, VERSION and COUNT describe the present INBUF (46_assembler.md R281). -/
def State.SelectionLegal (s : State) : Prop :=
  s.selValid = true →
    ∃ m, Mode.ofCode? s.mode.toNat = some m ∧ representable m s.mem.inbuf = true ∧
      s.count.toNat = s.mem.inbuf.length ∧
      findVersion s.cfg m s.level.toNat s.mem.inbuf.length = some s.version.toNat

/-- DATA_VALID = 1 means that DATA holds the data codeword stream of a text with the selection's mode, version and count;
DATA is empty otherwise (R282, R290). -/
def State.DataLegal (s : State) : Prop :=
  (s.dataValid = true →
    ∃ m p t bits, Mode.ofCode? s.mode.toNat = some m ∧ s.cfg.profile? s.version.toNat s.level.toNat = some p ∧
      representable m t = true ∧ t.length = s.count.toNat ∧
      assembleData s.cfg m s.version.toNat p.totalData s.count.toNat t = some bits ∧ s.mem.data = finalize bits) ∧
  (s.dataValid = false → s.mem.data = [])

/-- FINAL_VALID = 1 means that ECALL and FINAL hold the EC codewords and the final stream of the present DATA, and implies
DATA_VALID = 1; the two buffers are empty otherwise (R283, R291). -/
def State.FinalLegal (s : State) : Prop :=
  (s.finalValid = true →
    s.dataValid = true ∧
    ∃ p, s.cfg.profile? s.version.toNat s.level.toNat = some p ∧
      s.mem.ecall = (ecBlocks p (splitBlocks p s.mem.data)).flatten ∧
      s.mem.final = finalStream (splitBlocks p s.mem.data) (ecBlocks p (splitBlocks p s.mem.data)) ∧
      s.nblocks.toNat = p.blocks ∧ s.ecpb.toNat = p.ecPerBlock) ∧
  (s.finalValid = false → s.mem.ecall = [] ∧ s.mem.final = [])

/-! ## The invariant -/

/-- What holds of a QRCORE with a well-formed configuration at reset and after every step. -/
structure State.Inv (s : State) : Prop where
  config    : s.cfg.wf = true
  faults    : s.FaultLegal
  stream    : s.StreamLegal
  memory    : s.MemoryLegal
  reader    : s.ReaderLegal
  generator : s.GeneratorLegal
  registers : s.SelectionRegistersLegal
  selection : s.SelectionLegal
  data      : s.DataLegal
  final     : s.FinalLegal

/-- A run: any number of steps, each of which answers a next state. -/
inductive Runs : State → State → Prop where
  | refl (s : State) : Runs s s
  | tail {s t u : State} (h : Runs s t) (hstep : step t = .next u) : Runs s u

end Sys2Proof.Machine
end

