-- ==== Sys2Proof/WellFormed.lean ====
section
/-! DEFINITION. When the operands of a command are in the legal ranges of 30_encoding.md R74. These checks are the
commands' own, made after decoding (R76): a command with an operand outside its range is a legal word that raises the
fault of R74. The one configuration value they read is RS_MAX_EC. -/

namespace Sys2Proof

/-- Register ids 0..14 (R74). -/
def Operand.registerId (n : Byte) : Bool := decide (n.toNat ≤ 14)

/-- Buffer ids 0..8 (R74). -/
def Operand.bufferId (b : Byte) : Bool := decide (b.toNat ≤ 8)

/-- Writable buffer ids 0 and 1 (R74). -/
def Operand.writableBufferId (b : Byte) : Bool := decide (b.toNat ≤ 1)

/-- Bit counts 0..32 (R74). -/
def Operand.bitCount (n : Byte) : Bool := decide (n.toNat ≤ bsWriteMax)

/-- Degrees 1..RS_MAX_EC (R74). -/
def Operand.degree (cfg : Config) (r : Byte) : Bool := decide (1 ≤ r.toNat) && decide (r.toNat ≤ cfg.rsMaxEc)

/-- Mode codes 0, 1 and 2 (R74). -/
def Operand.modeCode (m : Byte) : Bool := decide (m.toNat ≤ 2)

/-- Mode codes 0, 1 and 2, and 0xFF for auto (R74). -/
def Operand.modeCodeOrAuto (a : Byte) : Bool := decide (a.toNat ≤ 2) || decide (a.toNat = 0xFF)

/-- Level codes 0..3 (R74). -/
def Operand.levelCode (l : Byte) : Bool := decide (l.toNat < numLevels)

/-- Every operand of the command is in its legal range (R74). -/
def Instr.wellFormed (cfg : Config) : Instr → Bool
  | .nop => true
  | .reset => true
  | .regRead n => Operand.registerId n
  | .bufClear b => Operand.writableBufferId b
  | .bufPush b _ => Operand.writableBufferId b
  | .bufRead b _ => Operand.bufferId b
  | .bufLen b => Operand.bufferId b
  | .bsClear => true
  | .bsWrite n _ => Operand.bitCount n
  | .bsTotal => true
  | .bsFinalize => true
  | .rdInit b => Operand.bufferId b
  | .rdHas => true
  | .rdBit => true
  | .gfAdd _ _ => true
  | .gfMul _ _ => true
  | .gfDiv _ _ => true
  | .gfExp _ => true
  | .gfLog _ => true
  | .rsGen r => Operand.degree cfg r
  | .rsEnc r => Operand.degree cfg r
  | .rsSynd r => Operand.degree cfg r
  | .segCheck m => Operand.modeCode m
  | .segCount m => Operand.modeCode m
  | .segWrite m => Operand.modeCode m
  | .segAuto => true
  | .asmSelect a l => Operand.modeCodeOrAuto a && Operand.levelCode l
  | .asmData => true
  | .asmBlocks => true
  | .asmEncode a l => Operand.modeCodeOrAuto a && Operand.levelCode l

end Sys2Proof
end

