-- ==== Sys2Proof/Certificates/Slice0/Obligations.lean ====
section
/-! DEFINITION. The statements for the provers: `Obligations.<Name>`, each from rules of spec/. First come the terms the
statements use that the model does not: tables and formulas written out again from the spec, independently of the model's
own functions. -/

open Sys2Proof Sys2Proof.Machine

namespace Sys2Proof.Spec

/-- spec/opcode_table.json: each row's match and mask. -/
def opcodeRows : List (Command × Command) :=
  [
    (0x0000000000000000, 0xFFFFFFFFFFFFFFFF),
    (0x0100000000000000, 0xFFFFFFFFFFFFFFFF),
    (0x0200000000000000, 0xFF00FFFFFFFFFFFF),
    (0x0300000000000000, 0xFF00FFFFFFFFFFFF),
    (0x0400000000000000, 0xFF0000FFFFFFFFFF),
    (0x0500000000000000, 0xFF00FFFF00000000),
    (0x0600000000000000, 0xFF00FFFFFFFFFFFF),
    (0x1000000000000000, 0xFFFFFFFFFFFFFFFF),
    (0x1100000000000000, 0xFF00FFFF00000000),
    (0x1200000000000000, 0xFFFFFFFFFFFFFFFF)]
  ++ [
    (0x1300000000000000, 0xFFFFFFFFFFFFFFFF),
    (0x1400000000000000, 0xFF00FFFFFFFFFFFF),
    (0x1500000000000000, 0xFFFFFFFFFFFFFFFF),
    (0x1600000000000000, 0xFFFFFFFFFFFFFFFF),
    (0x2000000000000000, 0xFF0000FFFFFFFFFF),
    (0x2100000000000000, 0xFF0000FFFFFFFFFF),
    (0x2200000000000000, 0xFF0000FFFFFFFFFF),
    (0x2300000000000000, 0xFF00FFFFFFFFFFFF),
    (0x2400000000000000, 0xFF00FFFFFFFFFFFF),
    (0x3000000000000000, 0xFF00FFFFFFFFFFFF)]
  ++ [
    (0x3100000000000000, 0xFF00FFFFFFFFFFFF),
    (0x3200000000000000, 0xFF00FFFFFFFFFFFF),
    (0x4000000000000000, 0xFF00FFFFFFFFFFFF),
    (0x4100000000000000, 0xFF00FFFFFFFFFFFF),
    (0x4200000000000000, 0xFF00FFFFFFFFFFFF),
    (0x4300000000000000, 0xFFFFFFFFFFFFFFFF),
    (0x5000000000000000, 0xFF0000FFFFFFFFFF),
    (0x5100000000000000, 0xFFFFFFFFFFFFFFFF),
    (0x5200000000000000, 0xFFFFFFFFFFFFFFFF),
    (0x5300000000000000, 0xFF0000FFFFFFFFFF)]

/-- One word for each row of the opcode map (R75), in its order, with the command it stands for: OP from R75, the fields at
the places of R71 and R73, the reserved ones 0 (R72). -/
def writtenWords : List (Command × Instr) :=
  [
    (0x0000000000000000, .nop),
    (0x0100000000000000, .reset),
    (0x0201000000000000, .regRead 1),
    (0x0301000000000000, .bufClear 1),
    (0x0400480000000000, .bufPush 0 0x48),
    (0x05010000FFFFFFFF, .bufRead 1 0xFFFFFFFF),
    (0x0608000000000000, .bufLen 8),
    (0x1000000000000000, .bsClear),
    (0x110500000000001F, .bsWrite 5 0x1F),
    (0x1200000000000000, .bsTotal)]
  ++ [
    (0x1300000000000000, .bsFinalize),
    (0x1420000000000000, .rdInit 0x20),
    (0x1500000000000000, .rdHas),
    (0x1600000000000000, .rdBit),
    (0x2001020000000000, .gfAdd 1 2),
    (0x2153CA0000000000, .gfMul 0x53 0xCA),
    (0x228FCA0000000000, .gfDiv 0x8F 0xCA),
    (0x2318000000000000, .gfExp 0x18),
    (0x248F000000000000, .gfLog 0x8F),
    (0x300F000000000000, .rsGen 15)]
  ++ [
    (0x310F000000000000, .rsEnc 15),
    (0x320F000000000000, .rsSynd 15),
    (0x4001000000000000, .segCheck 1),
    (0x4101000000000000, .segCount 1),
    (0x42FF000000000000, .segWrite 0xFF),
    (0x4300000000000000, .segAuto),
    (0x50FF020000000000, .asmSelect 0xFF 2),
    (0x5100000000000000, .asmData),
    (0x5200000000000000, .asmBlocks),
    (0x5301030000000000, .asmEncode 1 3)]

/-- The fifteen registers by id (R20), STATUS assembled. -/
def registerFile (s : State) : List Word :=
  [s.res, s.status, s.errinfo, s.mode, s.level, s.version, s.count, s.genR, s.bsLen, s.rdSrc, s.rdByte, s.rdBit, s.rdLen,
    s.nblocks, s.ecpb]

/-- The nine buffers by id (R50), BSBYTES as the view of R31. -/
def bufferFile (s : State) : List (List Byte) :=
  [s.mem.inbuf, s.mem.rsin, s.mem.gen, s.mem.rsout, s.mem.synd, finalize s.bs, s.mem.data, s.mem.ecall, s.mem.final]

/-- The state `s` with a fault recorded over it (R402). -/
def faulted (s : State) (code : BitVec 4) (info : Word) : State :=
  { s with fault := true, errcode := code, errinfo := info }

/-- The fault of an operand outside its range (R74) with its ERRINFO (R401): IllegalCommand (6) with the OP byte, or
InvalidConfiguration (5) with the offending field. -/
def operandFault : Instr → BitVec 4 × Word
  | .regRead _ => (6, 0x02)
  | .bufClear _ => (6, 0x03)
  | .bufPush _ _ => (6, 0x04)
  | .bufRead _ _ => (6, 0x05)
  | .bufLen _ => (6, 0x06)
  | .bsWrite _ _ => (6, 0x11)
  | .rdInit _ => (6, 0x14)
  | .rsGen _ => (6, 0x30)
  | .rsEnc _ => (6, 0x31)
  | .rsSynd _ => (6, 0x32)
  | .segCheck m => (5, m.zeroExtend 32)
  | .segCount m => (5, m.zeroExtend 32)
  | .segWrite m => (5, m.zeroExtend 32)
  | .asmSelect a l => (5, if a.toNat ≤ 2 ∨ a = 0xFF then l.zeroExtend 32 else a.zeroExtend 32)
  | .asmEncode a l => (5, if a.toNat ≤ 2 ∨ a = 0xFF then l.zeroExtend 32 else a.zeroExtend 32)
  | .nop => (0, 0)
  | .reset => (0, 0)
  | .bsClear => (0, 0)
  | .bsTotal => (0, 0)
  | .bsFinalize => (0, 0)
  | .rdHas => (0, 0)
  | .rdBit => (0, 0)
  | .gfAdd _ _ => (0, 0)
  | .gfMul _ _ => (0, 0)
  | .gfDiv _ _ => (0, 0)
  | .gfExp _ => (0, 0)
  | .gfLog _ => (0, 0)
  | .segAuto => (0, 0)
  | .asmData => (0, 0)
  | .asmBlocks => (0, 0)

/-- The 45 characters of the alphanumeric set in the order of their values (R250): digits, A-Z, space, and the eight
signs. -/
def alphabet : List Nat :=
  List.range' 0x30 10 ++ List.range' 0x41 26 ++ [0x20, 0x24, 0x25, 0x2A, 0x2B, 0x2D, 0x2E, 0x2F, 0x3A]

/-- A digit (R250). -/
def isDigit (c : Byte) : Bool := decide (0x30 ≤ c.toNat) && decide (c.toNat ≤ 0x39)

/-- A character of the mode with this code (R250). -/
def isChar (modeCode : Nat) (c : Byte) : Bool :=
  match modeCode with
  | 0 => isDigit c
  | 1 => alphabet.contains c.toNat
  | _ => true

/-- The product of two bytes as polynomials over GF(2), of degree at most 14. -/
def carrylessProduct (a b : Byte) : BitVec 16 :=
  (List.range 8).foldl (fun acc k => if b.getLsbD k then acc ^^^ (a.zeroExtend 16 <<< k) else acc) 0

/-- The remainder of a polynomial of degree at most 14 modulo PRIM_POLY. -/
def reduceModulus (p : BitVec 16) : Byte :=
  ([14, 13, 12, 11, 10, 9, 8].foldl
    (fun acc k => if acc.getLsbD k then acc ^^^ (primPoly.zeroExtend 16 <<< (k - 8)) else acc) p).truncate 8

/-- Coefficient-wise XOR of two sequences of one length. -/
def xorAll (p q : List Byte) : List Byte := List.zipWith (fun a b => a ^^^ b) p q

/-- Coefficient k of the convolution of `a` and `b` (R191): the XOR of all gf_mul(a[i], b[k - i]). -/
def convolution (a b : List Byte) (k : Nat) : Byte :=
  (List.range a.length).foldl
    (fun acc i => if i ≤ k ∧ k - i < b.length then acc ^^^ gfMul (a.getD i 0) (b.getD (k - i) 0) else acc) 0

/-- Running commands one after another: RES after each, and the last state; none if one does not answer a next state. -/
def trace : List Instr → State → Option (List Word × State)
  | [], s => some ([], s)
  | i :: rest, s =>
    match exec i s with
    | .next t => (trace rest t).map fun r => (t.res :: r.1, r.2)
    | _ => none

/-- The mode that field A of ASM_SELECT and ASM_ENCODE asks for on a text (R74, R257). -/
def requestedMode (a : Byte) (t : List Byte) : Option Mode :=
  if a = 0xFF then some (if t.all isDigit then .numeric else if t.all (isChar 1) then .alnum else .byte)
  else if a = 0 then some .numeric
  else if a = 1 then some .alnum
  else if a = 2 then some .byte
  else none

/-- The state after a successful ASM_SELECT (R290) with mode m, level l and version v. -/
def selected (s : State) (m : Mode) (l : Byte) (v : Nat) : State :=
  { s with
    mode := BitVec.ofNat 32 m.code, level := l.zeroExtend 32, count := BitVec.ofNat 32 s.mem.inbuf.length
    version := BitVec.ofNat 32 v, selValid := true, dataValid := false, finalValid := false
    mem := { s.mem with data := [], ecall := [], final := [] }, res := BitVec.ofNat 32 v }

/-- The state after a successful ASM_DATA (R291) with profile p and the data bitstream `bits`. -/
def assembled (s : State) (p : Profile) (bits : List Bool) : State :=
  { s with
    bs := bits, bsLen := BitVec.ofNat 32 bits.length, dataValid := true, finalValid := false
    mem := { s.mem with data := finalize bits, ecall := [], final := [] }, res := BitVec.ofNat 32 p.totalData }

/-- The EC blocks of DATA (R286). -/
def ecOf (p : Profile) (data : List Byte) : List (List Byte) :=
  (splitBlocks p data).map fun block => generateEC block p.ecPerBlock

/-- The state after a successful ASM_BLOCKS (R292) with profile p. -/
def blocked (s : State) (p : Profile) : State :=
  { s with
    mem := { s.mem with
      ecall := (ecOf p s.mem.data).flatten
      final := interleave (splitBlocks p s.mem.data) ++ interleave (ecOf p s.mem.data) }
    nblocks := BitVec.ofNat 32 (p.g1Blocks + p.g2Blocks), ecpb := BitVec.ofNat 32 p.ecPerBlock, finalValid := true
    res := BitVec.ofNat 32 (p.totalData + (p.g1Blocks + p.g2Blocks) * p.ecPerBlock) }

/-- The four checks of R226; the fourth is the bounds of R53. -/
def PassesChecks (cfg : Config) : Prop :=
  (∀ v l, 1 ≤ v → v ≤ 40 → l ≤ 3 → ∃ p, cfg.profile? v l = some p ∧
    1 ≤ p.g1Blocks ∧ 1 ≤ p.g1Data ∧ (p.g2Blocks = 0 ∨ 1 ≤ p.g2Data) ∧ p.g1Blocks + p.g2Blocks ≤ 255 ∧
    1 ≤ p.ecPerBlock ∧ p.ecPerBlock ≤ cfg.rsMaxEc ∧ p.g1Blocks * p.g1Data + p.g2Blocks * p.g2Data = p.totalData ∧
    p.totalData ≤ cfg.maxData ∧ (p.g1Blocks + p.g2Blocks) * p.ecPerBlock ≤ cfg.maxEcall ∧
    p.totalData + (p.g1Blocks + p.g2Blocks) * p.ecPerBlock ≤ cfg.maxFinal ∧
    ∀ m : Mode, cfg.capacityOf v l m < 2 ^ cfg.cciWidth (band v) m ∧
      4 + cfg.cciWidth (band v) m + payloadBits m (cfg.capacityOf v l m) ≤ 8 * p.totalData) ∧
  (∀ b, b ≤ 2 → ∀ m : Mode, 1 ≤ cfg.cciWidth b m ∧ cfg.cciWidth b m ≤ 32) ∧
  1 ≤ cfg.inMax ∧ 1 ≤ cfg.rsMaxMsg ∧ 1 ≤ cfg.rsMaxEc ∧ cfg.rsMaxEc ≤ 254 ∧ 8 * cfg.maxData ≤ cfg.bsMaxBits

/-- c(exp(j)) as R190 writes a polynomial of coefficients c[0..n-1], highest degree first: the XOR over i of
c[i]·exp(j)^(n-1-i). -/
def valueAtRoot (c : List Byte) (j : Nat) : Byte :=
  (List.range c.length).foldl (fun acc i => acc ^^^ gfMul (c.getD i 0) (gfExp (j * (c.length - 1 - i)))) 0

/-- The commands that write no state but RES (R20, R50): reads, tests and field arithmetic. -/
def writesOnlyRes : Instr → Bool
  | .nop => false
  | .reset => false
  | .regRead _ => true
  | .bufClear _ => false
  | .bufPush _ _ => false
  | .bufRead _ _ => true
  | .bufLen _ => true
  | .bsClear => false
  | .bsWrite _ _ => false
  | .bsTotal => true
  | .bsFinalize => true
  | .rdInit _ => false
  | .rdHas => true
  | .rdBit => false
  | .gfAdd _ _ => true
  | .gfMul _ _ => true
  | .gfDiv _ _ => true
  | .gfExp _ => true
  | .gfLog _ => true
  | .rsGen _ => false
  | .rsEnc _ => false
  | .rsSynd _ => false
  | .segCheck _ => true
  | .segCount _ => true
  | .segWrite _ => false
  | .segAuto => true
  | .asmSelect _ _ => false
  | .asmData => false
  | .asmBlocks => false
  | .asmEncode _ _ => false

/-- The commands whose rule names RES (R20). -/
def namesRes : Instr → Bool
  | .nop => false
  | .reset => true
  | .regRead _ => true
  | .bufClear _ => false
  | .bufPush _ _ => false
  | .bufRead _ _ => true
  | .bufLen _ => true
  | .bsClear => false
  | .bsWrite _ _ => false
  | .bsTotal => true
  | .bsFinalize => true
  | .rdInit _ => false
  | .rdHas => true
  | .rdBit => true
  | .gfAdd _ _ => true
  | .gfMul _ _ => true
  | .gfDiv _ _ => true
  | .gfExp _ => true
  | .gfLog _ => true
  | .rsGen _ => true
  | .rsEnc _ => true
  | .rsSynd _ => true
  | .segCheck _ => true
  | .segCount _ => true
  | .segWrite _ => true
  | .segAuto => true
  | .asmSelect _ _ => true
  | .asmData => true
  | .asmBlocks => true
  | .asmEncode _ _ => true

/-- The commands that may write BS and BS_LEN (R20, R30), RESET apart. -/
def writesStream : Instr → Bool
  | .nop => false
  | .reset => false
  | .regRead _ => false
  | .bufClear _ => false
  | .bufPush _ _ => false
  | .bufRead _ _ => false
  | .bufLen _ => false
  | .bsClear => true
  | .bsWrite _ _ => true
  | .bsTotal => false
  | .bsFinalize => false
  | .rdInit _ => false
  | .rdHas => false
  | .rdBit => false
  | .gfAdd _ _ => false
  | .gfMul _ _ => false
  | .gfDiv _ _ => false
  | .gfExp _ => false
  | .gfLog _ => false
  | .rsGen _ => false
  | .rsEnc _ => false
  | .rsSynd _ => false
  | .segCheck _ => false
  | .segCount _ => false
  | .segWrite _ => true
  | .segAuto => false
  | .asmSelect _ _ => false
  | .asmData => true
  | .asmBlocks => false
  | .asmEncode _ _ => true

/-- The buffers a command may write (R50), RESET apart. BSBYTES is written by none, and changes with BS (R31). -/
def buffersWritten : Instr → List BufId
  | .nop => []
  | .reset => []
  | .regRead _ => []
  | .bufClear b => if b = 0 then [.inbuf] else if b = 1 then [.rsin] else []
  | .bufPush b _ => if b = 0 then [.inbuf] else if b = 1 then [.rsin] else []
  | .bufRead _ _ => []
  | .bufLen _ => []
  | .bsClear => [.bsbytes]
  | .bsWrite _ _ => [.bsbytes]
  | .bsTotal => []
  | .bsFinalize => []
  | .rdInit _ => []
  | .rdHas => []
  | .rdBit => []
  | .gfAdd _ _ => []
  | .gfMul _ _ => []
  | .gfDiv _ _ => []
  | .gfExp _ => []
  | .gfLog _ => []
  | .rsGen _ => [.gen]
  | .rsEnc _ => [.rsout]
  | .rsSynd _ => [.synd]
  | .segCheck _ => []
  | .segCount _ => []
  | .segWrite _ => [.bsbytes]
  | .segAuto => []
  | .asmSelect _ _ => [.data, .ecall, .final]
  | .asmData => [.bsbytes, .data, .ecall, .final]
  | .asmBlocks => [.ecall, .final]
  | .asmEncode _ _ => [.bsbytes, .data, .ecall, .final]

end Sys2Proof.Spec

open Sys2Proof.Spec

/-! ## Encoding and the step -/

/-- R71, R72, R75: the written-out word of each of the thirty rows of the opcode map decodes to its command; and three
illegal words of the vectors D2, D6 and D3 of 95_test_vectors.md are refused for their reason. -/
def Obligations.WrittenWordsDecode : Prop :=
  (∀ row ∈ writtenWords, decode row.1 = .command row.2) ∧
  decode 0x0000000000000001 = .illegal .reservedField ∧
  decode 0x2353010000000000 = .illegal .reservedField ∧
  decode 0x0700000000000000 = .illegal .unknownOpcode

/-- Decoding an encoded command gives it back, for every command and every operand value (R71-R78). -/
def Obligations.DecodeOfEncode : Prop := ∀ i : Instr, decode (encode i) = .command i

/-- A word has one meaning: the command it decodes to encodes to that word (R71-R78). -/
def Obligations.EncodeOfDecode : Prop := ∀ (w : Command) (i : Instr), decode w = .command i → encode i = w

/-- R76: the legal words are those of the opcode table; 226 OP values are in no row; and an illegal word raises
IllegalCommand with ERRINFO = OP, or is discarded while FAULT = 1. The word is delivered as the first input of the model's
inbox (log entry 3). -/
def Obligations.IllegalWordsAreThoseOutsideTheTable : Prop :=
  (∀ w : Command, (∃ i, decode w = .command i) ↔ ∃ row ∈ opcodeRows, w &&& row.2 = row.1) ∧
  ((List.range 256).countP fun op => opcodeRows.all fun row => (row.1.extractLsb' 56 8).toNat != op) = 226 ∧
  (∀ (s : State) (w : Command) (rest : List HostInput) (why : Illegal),
    s.cfg.wf = true → s.inbox = .word w :: rest → decode w = .illegal why →
      step s = .next (if s.fault then { s with inbox := rest }
        else faulted { s with inbox := rest } 6 ((w.extractLsb' 56 8).zeroExtend 32)))

/-- A step on a legal word is exec of the command it decodes to (R403, R70), the word taken from the model's inbox (log
entry 3). -/
def Obligations.StepRunsTheDecodedCommand : Prop :=
  ∀ (s : State) (w : Command) (rest : List HostInput) (i : Instr),
    s.cfg.wf = true → s.inbox = .word w :: rest → decode w = .command i → step s = exec i { s with inbox := rest }

/-- While the host is silent the block holds its state (R416), and what it delivers next is what the next step runs
(R70; the inbox is the model's, log entry 3). -/
def Obligations.BlockHoldsItsStateBetweenWords : Prop :=
  (∀ s : State, s.cfg.wf = true → s.inbox = [] → step s = .next s) ∧
  (∀ (s : State) (w : Command) (i : Instr), s.cfg.wf = true → decode w = .command i →
    step (s.withFetchWord 64 w.toNat) = exec i s)

/-- R226 (whose check 4 is the bounds of R53): a step that is not refused has a configuration that passes every check. -/
def Obligations.MalformedConfigurationsAreRefused : Prop :=
  ∀ s : State, step s ≠ .refused .malformedConfiguration → PassesChecks s.cfg

/-- R226, the other direction: a machine whose configuration passes every check is never refused. The model asks two things
of a configuration beside R226: that the table has a row for each of the 40 versions and 4 levels and no other (log entry
17, DEDUCED), and that the counts fit their 32-bit registers (log entry 7, DEDUCED). -/
def Obligations.ConfigurationsThatPassAreRun : Prop :=
  ∀ s : State, PassesChecks s.cfg → s.cfg.ecProfile.length = 40 → (∀ row ∈ s.cfg.ecProfile, row.length = 4) →
    s.cfg.inMax < 2 ^ 32 → s.cfg.rsMaxMsg < 2 ^ 32 → s.cfg.bsMaxBits < 2 ^ 32 → s.cfg.maxEcall < 2 ^ 32 →
    s.cfg.maxFinal < 2 ^ 32 →
    s.cfg.wf = true ∧ ∀ why, step s ≠ .refused why

/-! ## Faults, the fault state, reset -/

/-- R402: a command that raises a fault changes FAULT, ERRCODE and ERRINFO and nothing else, whichever command it is. -/
def Obligations.FaultingCommandsChangeOnlyTheRecord : Prop :=
  ∀ (i : Instr) (s t : State), s.fault = false → exec i s = .next t → t.fault = true →
    ∃ (c : FaultCode) (info : Word), t = faulted s c.code info

/-- R403: while FAULT = 1 only NOP, REG_READ and RESET run, a REG_READ of no register is discarded, every other word is
discarded; while FAULT = 0 an illegal word is recorded and a command is executed. The word is the first input of the
model's inbox (log entry 3). -/
def Obligations.FaultStateGate : Prop :=
  ∀ (s : State) (w : Command) (rest : List HostInput), s.cfg.wf = true → s.inbox = .word w :: rest →
    (s.fault = true →
      (∀ why, decode w = .illegal why → step s = .next { s with inbox := rest }) ∧
      (∀ i, decode w = .command i → i ≠ .nop → i ≠ .reset → (∀ n, i ≠ .regRead n) →
        step s = .next { s with inbox := rest }) ∧
      (decode w = .command .nop → step s = .next { s with inbox := rest }) ∧
      (decode w = .command .reset → step s = .next (State.resetWith s.cfg rest)) ∧
      (∀ n, decode w = .command (.regRead n) → 15 ≤ n.toNat → step s = .next { s with inbox := rest }) ∧
      (∀ n v, decode w = .command (.regRead n) → (registerFile s)[n.toNat]? = some v →
        step s = .next { s with inbox := rest, res := v })) ∧
    (s.fault = false →
      (∀ why, decode w = .illegal why →
        step s = .next (faulted { s with inbox := rest } 6 ((w.extractLsb' 56 8).zeroExtend 32))) ∧
      (∀ i, decode w = .command i → step s = exec i { s with inbox := rest }))

/-- R22: FAULT = 0 if and only if ERRCODE = 0, kept by every command; and no command but RESET writes either field, or
ERRINFO, once a fault is recorded. -/
def Obligations.OnlyResetWritesARecordedFault : Prop :=
  (∀ (i : Instr) (s t : State), (s.fault = false ↔ s.errcode = 0) → exec i s = .next t →
    (t.fault = false ↔ t.errcode = 0)) ∧
  (∀ (i : Instr) (s t : State), s.fault = true → i ≠ .reset → exec i s = .next t →
    t.fault = true ∧ t.errcode = s.errcode ∧ t.errinfo = s.errinfo)

/-- R74: an operand outside its legal range raises the fault of its row, with the ERRINFO of R401; a command whose
operands are legal raises neither IllegalCommand nor InvalidConfiguration. -/
def Obligations.IllegalOperandsRaiseTheirFault : Prop :=
  (∀ (i : Instr) (s : State), s.fault = false → i.wellFormed s.cfg = false →
    exec i s = .next (faulted s (operandFault i).1 (operandFault i).2)) ∧
  (∀ (i : Instr) (s t : State), s.fault = false → i.wellFormed s.cfg = true → exec i s = .next t → t.fault = true →
    t.errcode ≠ 6 ∧ t.errcode ≠ 5)

/-- R450: RESET and the reset input leave every register 0, every flag 0 and every sequence empty, from any state, the
fault state included, and keep the configuration. That the host's undelivered inputs stay is the model's (log entry 5). The
state the model starts in is that state with the default configuration (log entries 2 and 12). -/
def Obligations.ResetClearsAllState : Prop :=
  (∀ s : State,
    (∃ t, exec .reset s = .next t ∧
      registerFile t = List.replicate 15 0 ∧ t.fault = false ∧ t.selValid = false ∧ t.dataValid = false ∧
      t.finalValid = false ∧ t.errcode = 0 ∧ t.bs = [] ∧ bufferFile t = List.replicate 9 [] ∧ t.cfg = s.cfg ∧
      t.inbox = s.inbox) ∧
    exec .reset s = .next (State.resetWith s.cfg s.inbox) ∧
    (∀ rest, s.cfg.wf = true → s.inbox = .resetInput :: rest → step s = exec .reset { s with inbox := rest })) ∧
  State.reset = State.resetWith Config.standard []

/-! ## Whole-machine rules -/

/-- The reset state of every well-formed configuration meets the invariant, `State.reset` (log entry 2) among them. -/
def Obligations.ResetMeetsTheInvariant : Prop :=
  State.reset.Inv ∧ ∀ (cfg : Config) (inbox : List HostInput), cfg.wf = true → (State.resetWith cfg inbox).Inv

/-- Every step keeps the invariant of Safety.lean, from every state that meets it (R20, R22, R30, R32, R50, R281-R283). -/
def Obligations.StepKeepsTheInvariant : Prop := ∀ s t : State, s.Inv → step s = .next t → t.Inv

/-- After any number of steps from a state that meets the invariant, whatever the host delivers, the invariant holds and
the next step answers a next state: no run from reset stops. The model's named stops (log entry 8) are in no such state. -/
def Obligations.NoRunStops : Prop := ∀ s t : State, s.Inv → Runs s t → t.Inv ∧ ∃ u, step t = .next u

/-- R34 and R35: no step writes the configuration; and it takes at most the first input of the model's inbox (log entries 1
and 3). -/
def Obligations.ConfigurationIsNeverWritten : Prop :=
  ∀ s t : State, step s = .next t → t.cfg = s.cfg ∧ t.inbox = s.inbox.tail

/-- R20, "written by": a register is unchanged by every command its row does not name (RESET and the fault record apart). -/
def Obligations.RegistersAreWrittenByTheirCommands : Prop :=
  ∀ (i : Instr) (s t : State), exec i s = .next t → i ≠ .reset →
    ((∀ a l, i ≠ .asmSelect a l) → (∀ a l, i ≠ .asmEncode a l) →
      t.mode = s.mode ∧ t.level = s.level ∧ t.version = s.version ∧ t.count = s.count) ∧
    ((∀ r, i ≠ .rsGen r) → t.genR = s.genR) ∧
    (writesStream i = false → t.bsLen = s.bsLen ∧ t.bs = s.bs) ∧
    ((∀ b, i ≠ .rdInit b) → t.rdSrc = s.rdSrc ∧ t.rdLen = s.rdLen) ∧
    ((∀ b, i ≠ .rdInit b) → i ≠ .rdBit → t.rdByte = s.rdByte ∧ t.rdBit = s.rdBit) ∧
    (i ≠ .asmBlocks → (∀ a l, i ≠ .asmEncode a l) → t.nblocks = s.nblocks ∧ t.ecpb = s.ecpb) ∧
    (namesRes i = false → t.res = s.res) ∧
    (t.fault = true → t.res ≠ s.res → s.fault = true ∧ ∃ n, i = .regRead n) ∧
    (t.errinfo ≠ s.errinfo → s.fault = false ∧ t.fault = true)

/-- R50, "written by": every byte of a buffer reads as before after every command its row does not name, and the length
with it; BSBYTES changes only with BS (R31). A read of byte j of buffer b is of element j of what the buffer of that id
holds (R51). -/
def Obligations.BuffersAreWrittenByTheirCommands : Prop :=
  (∀ s : State,
    [BufId.inbuf, .rsin, .gen, .rsout, .synd, .bsbytes, .data, .ecall, .final].map s.bufBytes = bufferFile s ∧
    ∀ (b : BufId) (j : Nat), s.readByte b j = (s.bufBytes b)[j]?) ∧
  ∀ (i : Instr) (s t : State) (b : BufId), exec i s = .next t → i ≠ .reset → b ∉ buffersWritten i →
    (∀ j, t.readByte b j = s.readByte b j) ∧ (t.bufBytes b).length = (s.bufBytes b).length

/-- R21: the layout of STATUS, and which commands set and clear each of its flags. -/
def Obligations.StatusLayoutAndFlagWriters : Prop :=
  (∀ s : State, s.status.getLsbD 0 = s.fault ∧ s.status.getLsbD 1 = s.selValid ∧ s.status.getLsbD 2 = s.dataValid ∧
    s.status.getLsbD 3 = s.finalValid ∧ s.status.extractLsb' 4 4 = 0 ∧ s.status.extractLsb' 8 4 = s.errcode ∧
    s.status.extractLsb' 12 20 = 0) ∧
  (∀ (i : Instr) (s t : State), exec i s = .next t →
    (s.fault = true → t.fault = false → i = .reset) ∧
    (s.selValid = false → t.selValid = true → (∃ a l, i = .asmSelect a l) ∨ ∃ a l, i = .asmEncode a l) ∧
    (s.selValid = true → t.selValid = false → i = .bufClear 0 ∨ (∃ v, i = .bufPush 0 v) ∨ i = .reset) ∧
    (s.dataValid = false → t.dataValid = true → i = .asmData ∨ ∃ a l, i = .asmEncode a l) ∧
    (s.dataValid = true → t.dataValid = false → (∃ a l, i = .asmSelect a l) ∨ i = .reset) ∧
    (s.finalValid = false → t.finalValid = true → i = .asmBlocks ∨ ∃ a l, i = .asmEncode a l) ∧
    (s.finalValid = true → t.finalValid = false → (∃ a l, i = .asmSelect a l) ∨ i = .asmData ∨ i = .reset) ∧
    (s.errcode ≠ 0 → t.errcode = 0 → s.fault = true → i = .reset))

/-- The frame of the commands that only read: RES or the fault record changes, and every register, flag, bit of BS and
byte of every buffer is as before (R20, R50, R58). -/
def Obligations.ReadingCommandsChangeOnlyRes : Prop :=
  ∀ (i : Instr) (s t : State), writesOnlyRes i = true → exec i s = .next t →
    (t = { s with res := t.res } ∨ ∃ (c : FaultCode) (info : Word), t = faulted s c.code info) ∧
    ∀ (b : BufId) (j : Nat), t.readByte b j = s.readByte b j

/-! ## Host access commands -/

/-- R100: NOP changes nothing, in the fault state too; its word is 0. -/
def Obligations.NopChangesNothing : Prop := (∀ s : State, exec .nop s = .next s) ∧ encode .nop = 0

/-- R102: REG_READ gives the register of its id, in the fault state too; an id above 14 raises IllegalCommand, or is
discarded while FAULT = 1. -/
def Obligations.RegReadGivesTheRegister : Prop :=
  ∀ (n : Byte) (s : State),
    (∀ v, (registerFile s)[n.toNat]? = some v → exec (.regRead n) s = .next { s with res := v }) ∧
    (n.toNat ≤ 14 → ∃ t, exec (.regRead n) s = .next t) ∧
    (15 ≤ n.toNat → s.fault = false → exec (.regRead n) s = .next (faulted s 6 0x02)) ∧
    (15 ≤ n.toNat → s.fault = true → exec (.regRead n) s = .next s)

/-- R103, R104: BUF_CLEAR empties INBUF, clearing SEL_VALID, or RSIN; BUF_PUSH appends its byte to INBUF, clearing
SEL_VALID, or to RSIN; a full buffer raises BufferOverflow with its id, any other buffer IllegalCommand. -/
def Obligations.HostBuffersClearAndAppend : Prop :=
  ∀ (s : State) (v : Byte), s.fault = false →
    exec (.bufClear 0) s = .next { s with mem := { s.mem with inbuf := [] }, selValid := false } ∧
    exec (.bufClear 1) s = .next { s with mem := { s.mem with rsin := [] } } ∧
    (∀ b : Byte, 2 ≤ b.toNat → exec (.bufClear b) s = .next (faulted s 6 0x03)) ∧
    (s.mem.inbuf.length ≠ s.cfg.inMax →
      exec (.bufPush 0 v) s =
        .next { s with mem := { s.mem with inbuf := s.mem.inbuf ++ [v] }, selValid := false }) ∧
    (s.mem.inbuf.length = s.cfg.inMax → exec (.bufPush 0 v) s = .next (faulted s 7 0)) ∧
    (s.mem.rsin.length ≠ s.cfg.rsMaxMsg →
      exec (.bufPush 1 v) s = .next { s with mem := { s.mem with rsin := s.mem.rsin ++ [v] } }) ∧
    (s.mem.rsin.length = s.cfg.rsMaxMsg → exec (.bufPush 1 v) s = .next (faulted s 7 1)) ∧
    ∀ b : Byte, 2 ≤ b.toNat → exec (.bufPush b v) s = .next (faulted s 6 0x04)

/-- R105: BUF_READ gives the byte at its index; an index at or past the length raises IndexOutOfRange. -/
def Obligations.BufReadGivesTheByte : Prop :=
  ∀ (b : Byte) (i : Word) (s : State), s.fault = false →
    (∀ bytes v, (bufferFile s)[b.toNat]? = some bytes → bytes[i.toNat]? = some v →
      exec (.bufRead b i) s = .next { s with res := v.zeroExtend 32 }) ∧
    (∀ bytes, (bufferFile s)[b.toNat]? = some bytes → bytes.length ≤ i.toNat →
      exec (.bufRead b i) s = .next (faulted s 8 (b.zeroExtend 32))) ∧
    (9 ≤ b.toNat → exec (.bufRead b i) s = .next (faulted s 6 0x05))

/-- R106: BUF_LEN gives a buffer's length, ceil(BS_LEN/8) for BSBYTES. -/
def Obligations.BufLenGivesTheLength : Prop :=
  ∀ (b : Byte) (s : State), s.fault = false →
    (∀ bytes, b ≠ 5 → (bufferFile s)[b.toNat]? = some bytes →
      exec (.bufLen b) s = .next { s with res := BitVec.ofNat 32 bytes.length }) ∧
    exec (.bufLen 5) s = .next { s with res := BitVec.ofNat 32 ((s.bsLen.toNat + 7) / 8) } ∧
    (9 ≤ b.toNat → exec (.bufLen b) s = .next (faulted s 6 0x06))

/-! ## Bitstream commands -/

/-- R130, R133, R134: BS_CLEAR empties BS; BS_TOTAL gives BS_LEN; BS_FINALIZE gives ceil(BS_LEN/8); none of the three
changes anything else. -/
def Obligations.StreamClearTotalFinalize : Prop :=
  ∀ s : State, s.fault = false →
    exec .bsClear s = .next { s with bs := [], bsLen := 0 } ∧
    exec .bsTotal s = .next { s with res := s.bsLen } ∧
    exec .bsFinalize s = .next { s with res := BitVec.ofNat 32 ((s.bsLen.toNat + 7) / 8) }

/-- R131, R132: BS_WRITE appends value[n-1] .. value[0]; more than 32 bits is IllegalCommand, and an append past
BS_MAX_BITS is BufferOverflow with info 5. -/
def Obligations.BsWriteAppendsTheLowBits : Prop :=
  ∀ (n : Byte) (value : Word) (s : State), s.fault = false →
    (n.toNat ≤ 32 → s.bs.length + n.toNat ≤ s.cfg.bsMaxBits →
      exec (.bsWrite n value) s =
        .next { s with
          bs := s.bs ++ (List.range n.toNat).map fun k => value.getLsbD (n.toNat - 1 - k)
          bsLen := BitVec.ofNat 32 (s.bs.length + n.toNat) }) ∧
    (n.toNat ≤ 32 → s.cfg.bsMaxBits < s.bs.length + n.toNat → exec (.bsWrite n value) s = .next (faulted s 7 5)) ∧
    (33 ≤ n.toNat → exec (.bsWrite n value) s = .next (faulted s 6 0x11))

/-- R135, R137: RD_INIT points the reader at the start of a buffer and samples its length; RD_HAS compares the cursor with
that length. -/
def Obligations.ReaderStartsAndReports : Prop :=
  ∀ s : State, s.fault = false →
    (∀ (b : Byte) (bytes : List Byte), b ≠ 5 → (bufferFile s)[b.toNat]? = some bytes →
      exec (.rdInit b) s =
        .next { s with rdSrc := b.zeroExtend 32, rdByte := 0, rdBit := 0, rdLen := BitVec.ofNat 32 bytes.length }) ∧
    exec (.rdInit 5) s =
      .next { s with rdSrc := 5, rdByte := 0, rdBit := 0, rdLen := BitVec.ofNat 32 ((s.bsLen.toNat + 7) / 8) } ∧
    (∀ b : Byte, 9 ≤ b.toNat → exec (.rdInit b) s = .next (faulted s 6 0x14)) ∧
    exec .rdHas s = .next { s with res := if s.rdByte.toNat < s.rdLen.toNat then 1 else 0 }

/-- R136: RD_BIT pops bit 7 - RD_BIT of byte RD_BYTE of the source as it is now, and moves the cursor one bit; at or past
RD_LEN or the source's present length it raises IndexOutOfRange and the cursor stays. -/
def Obligations.RdBitPopsTheNextBit : Prop :=
  ∀ (s : State) (src : List Byte), s.fault = false → (bufferFile s)[s.rdSrc.toNat]? = some src →
    (∀ v : Byte, s.rdByte.toNat < s.rdLen.toNat → src[s.rdByte.toNat]? = some v → s.rdBit.toNat ≤ 7 →
      exec .rdBit s =
        .next { s with
          res := if v.getLsbD (7 - s.rdBit.toNat) then 1 else 0
          rdBit := if s.rdBit = 7 then 0 else s.rdBit + 1
          rdByte := if s.rdBit = 7 then s.rdByte + 1 else s.rdByte }) ∧
    (s.rdLen.toNat ≤ s.rdByte.toNat ∨ src.length ≤ s.rdByte.toNat →
      exec .rdBit s = .next (faulted s 8 s.rdSrc))

/-- R31: bit 7 - t of byte k of finalize(BS) is BS[8k + t], 0 past the end, there are ceil(len/8) bytes, and BSBYTES reads
as it in every state. -/
def Obligations.FinalizePacksMsbFirst : Prop :=
  (∀ bs : List Bool, (finalize bs).length = (bs.length + 7) / 8 ∧
    ∀ k t, k < (bs.length + 7) / 8 → t ≤ 7 →
      ((finalize bs).getD k 0).getLsbD (7 - t) = bs.getD (8 * k + t) false) ∧
  ∀ s : State, s.bufBytes .bsbytes = finalize s.bs

/-- R138: after BS_CLEAR and BS_WRITEs whose widths sum to N, BS_TOTAL gives N, and RD_INIT BSBYTES and N RD_BITs give the
appended bits in order. That BS_MAX_BITS is below 2^32 is the model's (log entry 7, DEDUCED), not R138's. -/
def Obligations.BitstreamRoundTrip : Prop :=
  ∀ (s : State) (writes : List (Byte × Word)), s.fault = false → s.cfg.bsMaxBits < 2 ^ 32 →
    (∀ x ∈ writes, x.1.toNat ≤ 32) → (writes.map fun x => x.1.toNat).sum ≤ s.cfg.bsMaxBits →
    ∃ r t, trace ([.bsClear] ++ writes.map (fun x => .bsWrite x.1 x.2) ++ [.bsTotal, .rdInit 5] ++
        List.replicate (writes.map fun x => x.1.toNat).sum .rdBit) s = some (r, t) ∧
      r[writes.length + 1]? = some (BitVec.ofNat 32 (writes.map fun x => x.1.toNat).sum) ∧
      r.drop (writes.length + 3) =
        writes.flatMap fun x =>
          (List.range x.1.toNat).map fun k => if x.2.getLsbD (x.1.toNat - 1 - k) then 1 else 0

/-! ## Field arithmetic -/

/-- R160, R161, R175: EXP starts at 1 and follows xtime, its 255 entries are the nonzero bytes, each once, LOG inverts it,
and so gf_exp and gf_log are inverse to each other. -/
def Obligations.FieldTablesFollowTheirRecurrence : Prop :=
  expTable 0 = 1 ∧
  (∀ i, i < 254 → expTable (i + 1) =
    ((expTable i <<< 1) ^^^ if (expTable i).getLsbD 7 then (0x1D : Byte) else 0)) ∧
  (∀ i j, i < 255 → j < 255 → expTable i = expTable j → i = j) ∧
  (∀ a : Byte, a ≠ 0 → ∃ i, i < 255 ∧ expTable i = a) ∧
  (∀ i, i < 255 → logTable (expTable i) = i) ∧
  (∀ a : Byte, a ≠ 0 → ∃ k, gfLog a = some k ∧ gfExp k = a) ∧
  (∀ i, i ≤ 254 → gfLog (gfExp i) = some i)

/-- R167: gf_mul is the carry-less product reduced modulo PRIM_POLY. -/
def Obligations.GfMulIsTheCarrylessProduct : Prop :=
  ∀ a b : Byte, gfMul a b = reduceModulus (carrylessProduct a b)

/-- R176: the laws of the field. -/
def Obligations.FieldLaws : Prop :=
  (∀ a : Byte, gfMul a 0 = 0) ∧ (∀ a b : Byte, gfMul a b = gfMul b a) ∧ (∀ a : Byte, gfAdd a a = 0) ∧
  (∀ a b c : Byte, gfMul (gfMul a b) c = gfMul a (gfMul b c)) ∧
  (∀ a b c : Byte, gfMul a (gfAdd b c) = gfAdd (gfMul a b) (gfMul a c)) ∧
  (∀ a : Byte, a ≠ 0 → ∃ q, gfDiv 1 a = some q ∧ gfMul a q = 1)

/-- R162, R163, R170, R171: gf_add is XOR; GF_ADD gives the XOR, GF_MUL gives 0 or EXP of the sum of the logarithms mod 255. -/
def Obligations.GfAddAndGfMulGiveTheirElement : Prop :=
  (∀ a b : Byte, gfAdd a b = a ^^^ b) ∧
  ∀ (a b : Byte) (s : State), s.fault = false →
    exec (.gfAdd a b) s = .next { s with res := (a ^^^ b).zeroExtend 32 } ∧
    exec (.gfMul a b) s =
      .next { s with
        res := (if a = 0 ∨ b = 0 then (0 : Byte) else expTable ((logTable a + logTable b) % 255)).zeroExtend 32 }

/-- R164, R172: GF_DIV gives the one q with q·b = a, and raises DomainError with info 0 when b = 0. -/
def Obligations.GfDivGivesTheQuotient : Prop :=
  ∀ (a b : Byte) (s : State), s.fault = false →
    (b ≠ 0 → ∃ q : Byte, exec (.gfDiv a b) s = .next { s with res := q.zeroExtend 32 } ∧
      gfMul q b = a ∧ ∀ q' : Byte, gfMul q' b = a → q' = q) ∧
    exec (.gfDiv a 0) s = .next (faulted s 3 0)

/-- R165, R166, R173, R174: GF_EXP gives EXP[i mod 255]; GF_LOG gives the k in 0..254 with EXP[k] = a, and raises
DomainError with info 0 when a = 0. -/
def Obligations.GfExpAndGfLogGiveTheirValue : Prop :=
  ∀ (a : Byte) (s : State), s.fault = false →
    exec (.gfExp a) s = .next { s with res := (expTable (a.toNat % 255)).zeroExtend 32 } ∧
    (a ≠ 0 → ∃ k, k ≤ 254 ∧ expTable k = a ∧ exec (.gfLog a) s = .next { s with res := BitVec.ofNat 32 k }) ∧
    exec (.gfLog 0) s = .next (faulted s 3 0)

/-! ## Reed-Solomon -/

/-- R191: polyMultiply has len(a) + len(b) - 1 coefficients, and coefficient k is the XOR of the products a[i]·b[k-i]. -/
def Obligations.PolyMultiplyIsTheConvolution : Prop :=
  ∀ a b : List Byte, a ≠ [] → b ≠ [] →
    (polyMultiply a b).length = a.length + b.length - 1 ∧
    ∀ k, k < a.length + b.length - 1 → (polyMultiply a b).getD k 0 = convolution a b k

/-- R192: the generator starts at [1, 1], takes the factor [1, exp(j)] for j = 1..r-1, is monic of degree r, and has the
roots exp(0)..exp(r-1). -/
def Obligations.GeneratorHasItsRoots : Prop :=
  buildGenerator 1 = [1, 1] ∧
  ∀ r, 1 ≤ r →
    buildGenerator (r + 1) = polyMultiply (buildGenerator r) [1, gfExp r] ∧
    (buildGenerator r).length = r + 1 ∧ (buildGenerator r).head? = some 1 ∧
    ∀ j, j < r → evalPoly (buildGenerator r) (gfExp j) = 0

/-- R196: every codeword data ++ EC has only zero syndromes, at every length. R190, R194: syndrome j of c is c(exp(j)), the
sum of its coefficients times the powers of exp(j), and so is what evalPoly gives there. -/
def Obligations.CodewordsHaveZeroSyndromes : Prop :=
  (∀ (c : List Byte) (j : Nat), evalPoly c (gfExp j) = valueAtRoot c j) ∧
  (∀ (c : List Byte) (r : Nat), syndromes c r = (List.range r).map (valueAtRoot c)) ∧
  ∀ (data : List Byte) (r : Nat), 1 ≤ r → syndromes (data ++ generateEC data r) r = List.replicate r 0

/-- R195, R197: all-zero data of any length gives all-zero EC codewords; the EC codewords are the remainder of data(x)·x^r
by the generator, so that data ++ EC is a multiple of it, r coefficients long; and they are linear in the data. -/
def Obligations.CodewordsAreTheRemainder : Prop :=
  (∀ k r : Nat, 1 ≤ r → generateEC (List.replicate k 0) r = List.replicate r 0) ∧
  (∀ (data : List Byte) (r : Nat), 1 ≤ r → (generateEC data r).length = r ∧
    (data ≠ [] → ∃ q : List Byte, q.length = data.length ∧
      polyMultiply q (buildGenerator r) = data ++ generateEC data r)) ∧
  (∀ (a b : List Byte) (r : Nat), 1 ≤ r → a.length = b.length →
    generateEC (xorAll a b) r = xorAll (generateEC a r) (generateEC b r))

/-- R200: RS_GEN puts the generator in GEN, its degree in GEN_R and r + 1 in RES; a degree outside 1..RS_MAX_EC raises
IllegalCommand. -/
def Obligations.RsGenBuildsTheGenerator : Prop :=
  ∀ (r : Byte) (s : State), s.fault = false →
    (1 ≤ r.toNat → r.toNat ≤ s.cfg.rsMaxEc →
      exec (.rsGen r) s =
        .next { s with
          mem := { s.mem with gen := buildGenerator r.toNat }
          genR := r.zeroExtend 32, res := BitVec.ofNat 32 (r.toNat + 1) }) ∧
    (r.toNat = 0 ∨ s.cfg.rsMaxEc < r.toNat → exec (.rsGen r) s = .next (faulted s 6 0x30))

/-- R201, R202: RS_ENC puts the EC codewords of RSIN in RSOUT and r in RES; RS_SYND puts its syndromes in SYND, and 1 in
RES exactly when all are 0. Nothing else changes. -/
def Obligations.RsEncAndRsSyndFillTheirBuffer : Prop :=
  ∀ (r : Byte) (s : State), s.fault = false →
    (1 ≤ r.toNat → r.toNat ≤ s.cfg.rsMaxEc →
      exec (.rsEnc r) s =
        .next { s with
          mem := { s.mem with rsout := generateEC s.mem.rsin r.toNat }, res := r.zeroExtend 32 } ∧
      exec (.rsSynd r) s =
        .next { s with
          mem := { s.mem with synd := (List.range r.toNat).map fun j => evalPoly s.mem.rsin (gfExp j) }
          res := if ∀ j, j < r.toNat → evalPoly s.mem.rsin (gfExp j) = 0 then 1 else 0 }) ∧
    (r.toNat = 0 ∨ s.cfg.rsMaxEc < r.toNat →
      exec (.rsEnc r) s = .next (faulted s 6 0x31) ∧ exec (.rsSynd r) s = .next (faulted s 6 0x32))

/-! ## Tables -/

/-- R221, R227: maxChars is the greatest count that fits its indicator and the data bits, where any count does; CAPACITY is
the supplied entry of (v, l, m) wherever the configuration's table has one, and maxChars where it has none. That a
(v, l, m) outside the capacity table's shape counts as not supplied is the model's choice (log entry 16, DESIGN CHOICE). R220:
EC_PROFILE(v, l) is the record of the configuration's table at v and l; that there is none anywhere else is the model's
(log entry 17, DEDUCED). -/
def Obligations.MaxCharsIsTheGreatestCount : Prop :=
  (∀ (m : Mode) (w d : Nat), 4 + w ≤ 8 * d →
    (maxChars m w d < 2 ^ w ∧ 4 + w + payloadBits m (maxChars m w d) ≤ 8 * d) ∧
    ∀ n, n < 2 ^ w → 4 + w + payloadBits m n ≤ 8 * d → n ≤ maxChars m w d) ∧
  (∀ (cfg : Config) (v l : Nat) (p : Profile),
    cfg.profile? v l = some p ↔ 1 ≤ v ∧ ∃ row, cfg.ecProfile[v - 1]? = some row ∧ row[l]? = some p) ∧
  (∀ (cfg : Config) (v l : Nat) (m : Mode),
    v = 0 ∨ cfg.capacity[v - 1]? = none ∨ (∃ rows, cfg.capacity[v - 1]? = some rows ∧ rows[l]? = none) →
    cfg.suppliedCapacity? v l m = none) ∧
  (∀ (cfg : Config) (v l : Nat) (rows : List CapacityRow) (row : CapacityRow), 1 ≤ v →
    cfg.capacity[v - 1]? = some rows → rows[l]? = some row →
    cfg.suppliedCapacity? v l .numeric = row.numeric ∧ cfg.suppliedCapacity? v l .alnum = row.alnum ∧
      cfg.suppliedCapacity? v l .byte = row.byte) ∧
  (∀ (cfg : Config) (v l n : Nat) (m : Mode), cfg.suppliedCapacity? v l m = some n → cfg.capacityOf v l m = n) ∧
  ∀ (cfg : Config) (v l : Nat) (m : Mode) (p : Profile), cfg.profile? v l = some p → cfg.suppliedCapacity? v l m = none →
    cfg.capacityOf v l m = maxChars m (cfg.cciWidth (band v) m) p.totalData

/-- R284, R230: the version search gives the least of the versions 1..40 whose capacity covers the count, and fails exactly
when none does; so, in every configuration, the chosen version never decreases as the count grows. -/
def Obligations.VersionSearchIsMinimalAndMonotonic : Prop :=
  (∀ (cfg : Config) (m : Mode) (l n : Nat),
    (∀ v, findVersion cfg m l n = some v ↔
      1 ≤ v ∧ v ≤ 40 ∧ n ≤ cfg.capacityOf v l m ∧ ∀ u, 1 ≤ u → u < v → cfg.capacityOf u l m < n) ∧
    (findVersion cfg m l n = none ↔ ∀ v, 1 ≤ v → v ≤ 40 → cfg.capacityOf v l m < n)) ∧
  (∀ (cfg : Config) (m : Mode) (l n1 n2 v2 : Nat), n1 ≤ n2 → findVersion cfg m l n2 = some v2 →
    ∃ v1, findVersion cfg m l n1 = some v1 ∧ v1 ≤ v2)

/-! ## Segments -/

/-- R250: the value of an alphanumeric character is its place in the list of 45 characters, and of a digit its digit; no
other byte has one. -/
def Obligations.CharacterValuesAreTheTables : Prop :=
  (∀ (c : Byte) (k : Nat), alnumValue c = some k ↔ alphabet[k]? = some c.toNat) ∧
  (∀ (c : Byte) (k : Nat), numericValue c = some k ↔ k ≤ 9 ∧ c.toNat = 0x30 + k) ∧
  (∀ c : Byte, isCharOf .byte c = true ∧ (isCharOf .alnum c = (alnumValue c).isSome) ∧
    isCharOf .numeric c = (numericValue c).isSome)

/-- R252: firstInvalid is the least index of a byte that is no character of the mode, and a text is representable when
there is none; byte mode and the empty text always are. -/
def Obligations.FirstInvalidIsTheLeastIndex : Prop :=
  (∀ (m : Mode) (t : List Byte) (p : Nat), firstInvalid m t = some p ↔
    (∃ c, t[p]? = some c ∧ isChar m.code c = false) ∧
    ∀ q c, q < p → t[q]? = some c → isChar m.code c = true) ∧
  (∀ (m : Mode) (t : List Byte), representable m t = true ↔ ∀ c ∈ t, isChar m.code c = true) ∧
  (∀ t : List Byte, firstInvalid .byte t = none) ∧ (∀ m : Mode, firstInvalid m [] = none)

/-- R253, R254, R255, R256: the payload is the concatenation of its groups, written out from the rules' own loops, and its
length depends only on the mode and the count. R9: bitsOf(v, n) is v[n-1] .. v[0]. -/
def Obligations.PayloadsAreTheirGroups : Prop :=
  (∀ v n : Nat, bitsOf v n = (List.range n).map fun k => v.testBit (n - 1 - k)) ∧
  ∀ t : List Byte,
    payload .numeric t =
      ((List.range (t.length / 3)).flatMap fun g =>
        bitsOf (100 * ((t.getD (3 * g) 0).toNat - 0x30) + 10 * ((t.getD (3 * g + 1) 0).toNat - 0x30) +
          ((t.getD (3 * g + 2) 0).toNat - 0x30)) 10) ++
      (if t.length % 3 = 2 then
        bitsOf (10 * ((t.getD (3 * (t.length / 3)) 0).toNat - 0x30) +
          ((t.getD (3 * (t.length / 3) + 1) 0).toNat - 0x30)) 7
      else if t.length % 3 = 1 then bitsOf ((t.getD (3 * (t.length / 3)) 0).toNat - 0x30) 4
      else []) ∧
    ((∀ c ∈ t, alphabet.contains c.toNat = true) →
      payload .alnum t =
        ((List.range (t.length / 2)).flatMap fun p =>
          bitsOf (45 * alphabet.idxOf (t.getD (2 * p) 0).toNat + alphabet.idxOf (t.getD (2 * p + 1) 0).toNat) 11) ++
        (if t.length % 2 = 1 then bitsOf (alphabet.idxOf (t.getD (t.length - 1) 0).toNat) 6 else [])) ∧
    (payload .byte t = t.flatMap fun c => bitsOf c.toNat 8) ∧
    (payload .numeric t).length = 10 * (t.length / 3) + [0, 4, 7].getD (t.length % 3) 0 ∧
    (payload .alnum t).length = 11 * (t.length / 2) + 6 * (t.length % 2) ∧
    (payload .byte t).length = 8 * t.length ∧
    ∀ m : Mode, (payload m t).length = payloadBits m t.length

/-- R260, R261, R263, R257: SEG_CHECK tests every byte of INBUF, SEG_COUNT counts them, SEG_AUTO gives the first mode that
accepts them all; a mode code above 2 raises InvalidConfiguration. -/
def Obligations.SegmentTestsAnswer : Prop :=
  ∀ (m : Byte) (s : State), s.fault = false →
    (m.toNat ≤ 2 →
      exec (.segCheck m) s = .next { s with res := if s.mem.inbuf.all (isChar m.toNat) then 1 else 0 } ∧
      exec (.segCount m) s = .next { s with res := BitVec.ofNat 32 s.mem.inbuf.length }) ∧
    (3 ≤ m.toNat →
      exec (.segCheck m) s = .next (faulted s 5 (m.zeroExtend 32)) ∧
      exec (.segCount m) s = .next (faulted s 5 (m.zeroExtend 32))) ∧
    exec .segAuto s =
      .next { s with
        res := if s.mem.inbuf.all isDigit then 0 else if s.mem.inbuf.all (isChar 1) then 1 else 2 }

/-- R262: SEG_WRITE appends the payload and gives its length; a byte the mode cannot represent raises InvalidCharacter
with its position, and a payload that does not fit raises BufferOverflow with info 5, with nothing appended. R74: the mode
codes are 0, 1 and 2, and a command with another one raises InvalidConfiguration. -/
def Obligations.SegWriteAppendsThePayload : Prop :=
  [Mode.numeric, .alnum, .byte].map Mode.code = [0, 1, 2] ∧
  (∀ (n : Nat) (m : Mode), Mode.ofCode? n = some m ↔ n = m.code) ∧
  (∀ (code : Byte) (s : State), s.fault = false → 3 ≤ code.toNat →
    exec (.segWrite code) s = .next (faulted s 5 (code.zeroExtend 32))) ∧
  ∀ (code : Byte) (m : Mode) (s : State), s.fault = false → Mode.ofCode? code.toNat = some m →
    (representable m s.mem.inbuf = true → s.bs.length + (payload m s.mem.inbuf).length ≤ s.cfg.bsMaxBits →
      exec (.segWrite code) s =
        .next { s with
          bs := s.bs ++ payload m s.mem.inbuf
          bsLen := BitVec.ofNat 32 (s.bs.length + (payload m s.mem.inbuf).length)
          res := BitVec.ofNat 32 (payload m s.mem.inbuf).length }) ∧
    (representable m s.mem.inbuf = true → s.cfg.bsMaxBits < s.bs.length + (payload m s.mem.inbuf).length →
      exec (.segWrite code) s = .next (faulted s 7 5)) ∧
    (∀ p, firstInvalid m s.mem.inbuf = some p →
      exec (.segWrite code) s = .next (faulted s 1 (BitVec.ofNat 32 p)))

/-! ## Assembler -/

/-- R285: the data bitstream is 8·D bits: the 4-bit mode indicator, the count in its width, the payload, the clipped
terminator, zero bits to a byte boundary, and PAD0 and PAD1 in turn; a header and payload longer than that fail.
R222: the width is that of the version's band, 1..9, 10..26 or 27..40. R223: it is the configuration's entry for the band
and the mode. R224: alphanumeric's indicator is 0010 in every configuration, and the other two are the configuration's own
(log entry 14, DEDUCED). R223, R224, R225: the widths, indicators and pad bytes of the default configuration (values the
spec takes from general knowledge, log entry 22). -/
def Obligations.DataStreamHasItsParts : Prop :=
  (∀ v, (1 ≤ v → v ≤ 9 → band v = 0) ∧ (10 ≤ v → v ≤ 26 → band v = 1) ∧ (27 ≤ v → v ≤ 40 → band v = 2)) ∧
  (∀ cfg : Config,
    [Mode.numeric, .alnum, .byte].map (cfg.cciWidth 0) = [cfg.cciBand0.numeric, cfg.cciBand0.alnum, cfg.cciBand0.byte] ∧
    [Mode.numeric, .alnum, .byte].map (cfg.cciWidth 1) = [cfg.cciBand1.numeric, cfg.cciBand1.alnum, cfg.cciBand1.byte] ∧
    [Mode.numeric, .alnum, .byte].map (cfg.cciWidth 2) = [cfg.cciBand2.numeric, cfg.cciBand2.alnum, cfg.cciBand2.byte] ∧
    [Mode.numeric, .alnum, .byte].map cfg.modeInd = [cfg.modeIndNumeric, 0b0010, cfg.modeIndByte]) ∧
  ([0, 1, 2].map fun b => [Mode.numeric, .alnum, .byte].map (Config.standard.cciWidth b)) =
    [[10, 9, 8], [12, 11, 16], [14, 13, 16]] ∧
  Config.standard.modeInd .numeric = 0b0001 ∧ Config.standard.modeInd .byte = 0b0100 ∧
  Config.standard.pad0 = 0xEC ∧ Config.standard.pad1 = 0x11 ∧
  ∀ (cfg : Config) (m : Mode) (v d n : Nat) (t : List Byte),
    (assembleData cfg m v d n t = none ↔ 8 * d < 4 + cfg.cciWidth (band v) m + (payload m t).length) ∧
    ∀ bits, assembleData cfg m v d n t = some bits →
      bits.length = 8 * d ∧
      ∃ k z c, k = min 4 (8 * d - (4 + cfg.cciWidth (band v) m + (payload m t).length)) ∧ z < 8 ∧
        (4 + cfg.cciWidth (band v) m + (payload m t).length + k + z) % 8 = 0 ∧
        bits = bitsOf (cfg.modeInd m).toNat 4 ++ bitsOf n (cfg.cciWidth (band v) m) ++ payload m t ++
          List.replicate (k + z) false ++
          (List.range c).flatMap fun j => bitsOf (if j % 2 = 0 then cfg.pad0 else cfg.pad1).toNat 8

/-- R286, R287: the blocks are b1 of d1 bytes and then b2 of d2 bytes, and use every byte of the data once, in order.
Interleaving emits the first byte of every block that has one, in group order, and then interleaves the rests, until every
block is exhausted; so it emits every byte once, and one block is unchanged. -/
def Obligations.BlocksSplitAndInterleave : Prop :=
  (∀ (p : Profile) (data : List Byte), data.length = p.g1Blocks * p.g1Data + p.g2Blocks * p.g2Data →
    (splitBlocks p data).flatten = data ∧
    (splitBlocks p data).map List.length =
      List.replicate p.g1Blocks p.g1Data ++ List.replicate p.g2Blocks p.g2Data) ∧
  (∀ blocks : List (List Byte),
    ((∃ block ∈ blocks, block ≠ []) →
      interleave blocks = blocks.filterMap List.head? ++ interleave (blocks.map List.tail)) ∧
    ((∀ block ∈ blocks, block = []) → interleave blocks = []) ∧
    (interleave blocks).Perm blocks.flatten) ∧
  (∀ block : List Byte, interleave [block] = block)

/-- R290: ASM_SELECT writes the selection, sets SEL_VALID, clears the later stages and empties their buffers. -/
def Obligations.AsmSelectChoosesTheVersion : Prop :=
  ∀ (a l : Byte) (m : Mode) (v : Nat) (s : State), s.fault = false →
    requestedMode a s.mem.inbuf = some m → l.toNat ≤ 3 → representable m s.mem.inbuf = true →
    findVersion s.cfg m l.toNat s.mem.inbuf.length = some v →
    exec (.asmSelect a l) s = .next (selected s m l v)

/-- R290, R293, R405: the checks of ASM_SELECT and ASM_ENCODE in their order: mode code, level code, representability,
capacity. -/
def Obligations.SelectionChecksInOrder : Prop :=
  ∀ (a l : Byte) (s : State), s.fault = false → ∀ i, i = .asmSelect a l ∨ i = .asmEncode a l →
    (requestedMode a s.mem.inbuf = none → exec i s = .next (faulted s 5 (a.zeroExtend 32))) ∧
    ∀ m, requestedMode a s.mem.inbuf = some m →
      (4 ≤ l.toNat → exec i s = .next (faulted s 5 (l.zeroExtend 32))) ∧
      (l.toNat ≤ 3 →
        (∀ p, firstInvalid m s.mem.inbuf = some p → exec i s = .next (faulted s 1 (BitVec.ofNat 32 p))) ∧
        (firstInvalid m s.mem.inbuf = none → findVersion s.cfg m l.toNat s.mem.inbuf.length = none →
          exec i s = .next (faulted s 2 (BitVec.ofNat 32 s.mem.inbuf.length))))

/-- R291: ASM_DATA puts the data bitstream in BS and its bytes in DATA, and empties ECALL and FINAL; without a valid
selection it raises SequenceError, and too long a stream raises CapacityExceeded. -/
def Obligations.AsmDataBuildsTheStream : Prop :=
  ∀ s : State, s.fault = false →
    (s.selValid = false → exec .asmData s = .next (faulted s 9 0x51)) ∧
    ∀ m p, s.selValid = true → Mode.ofCode? s.mode.toNat = some m →
      s.cfg.profile? s.version.toNat s.level.toNat = some p → representable m s.mem.inbuf = true →
      (∀ bits, assembleData s.cfg m s.version.toNat p.totalData s.count.toNat s.mem.inbuf = some bits →
        exec .asmData s = .next (assembled s p bits)) ∧
      (assembleData s.cfg m s.version.toNat p.totalData s.count.toNat s.mem.inbuf = none →
        exec .asmData s = .next (faulted s 2 s.count))

/-- R292: ASM_BLOCKS puts the EC codewords of the blocks of DATA in ECALL, block after block, and the interleaved stream
in FINAL, whatever INBUF and SEL_VALID are; without valid data it raises SequenceError. -/
def Obligations.AsmBlocksInterleaves : Prop :=
  ∀ s : State, s.fault = false →
    (s.dataValid = false → exec .asmBlocks s = .next (faulted s 9 0x52)) ∧
    ∀ p, s.dataValid = true → s.cfg.profile? s.version.toNat s.level.toNat = some p →
      p.g1Blocks * p.g1Data + p.g2Blocks * p.g2Data ≤ s.mem.data.length →
      exec .asmBlocks s = .next (blocked s p)

/-- R293: ASM_ENCODE leaves the state of ASM_SELECT, ASM_DATA and ASM_BLOCKS in sequence, and a fault of any of the three
is recorded over the state before the first. -/
def Obligations.AsmEncodeIsTheThreeStages : Prop :=
  ∀ (a l : Byte) (s t u : State), s.fault = false → exec (.asmSelect a l) s = .next t →
    (t.fault = true → exec (.asmEncode a l) s = .next t) ∧
    (t.fault = false → exec .asmData t = .next u →
      (u.fault = true → exec (.asmEncode a l) s = .next (faulted s u.errcode u.errinfo)) ∧
      (u.fault = false → exec (.asmEncode a l) s = exec .asmBlocks u))

/-- R291 and R406: with a well-formed configuration, a representable text that some version covers is encoded whole, with
all three stages valid: ASM_DATA's CapacityExceeded cannot arise and nothing is clipped. -/
def Obligations.CoveredTextsEncodeSuccessfully : Prop :=
  ∀ (a l : Byte) (m : Mode) (v : Nat) (s : State), s.fault = false → s.cfg.wf = true →
    s.mem.inbuf.length ≤ s.cfg.inMax → requestedMode a s.mem.inbuf = some m → l.toNat ≤ 3 →
    representable m s.mem.inbuf = true → findVersion s.cfg m l.toNat s.mem.inbuf.length = some v →
    ∃ p bits, s.cfg.profile? v l.toNat = some p ∧
      assembleData s.cfg m v p.totalData s.mem.inbuf.length s.mem.inbuf = some bits ∧
      exec (.asmEncode a l) s = .next (blocked (assembled (selected s m l v) p bits) p)

/-- R294: after a successful ASM_ENCODE the lengths of DATA, ECALL and FINAL are those of the profile, FINAL is a
permutation of DATA ++ ECALL, every block j of DATA followed by the j-th E bytes of ECALL has zero syndromes, BS_LEN = 8·D
and finalize(BS) = DATA. Clauses 1 to 3 are stated of every ASM_BLOCKS too. Clause 4 is stated of an ASM_BLOCKS that
directly follows ASM_DATA and not of every one: R462 lets BS change between the two (log entry 21). -/
def Obligations.EncodedStreamsHaveTheirShape : Prop :=
  (∀ (i : Instr) (s t : State), s.Inv → s.fault = false → exec i s = .next t → t.fault = false →
    i = .asmBlocks ∨ (∃ a l, i = .asmEncode a l) →
    ∃ p, t.cfg.profile? t.version.toNat t.level.toNat = some p ∧
      t.mem.data.length = p.totalData ∧ t.mem.ecall.length = (p.g1Blocks + p.g2Blocks) * p.ecPerBlock ∧
      t.mem.final.length = p.totalData + (p.g1Blocks + p.g2Blocks) * p.ecPerBlock ∧
      t.mem.final.Perm (t.mem.data ++ t.mem.ecall) ∧
      (∀ j block, (splitBlocks p t.mem.data)[j]? = some block →
        syndromes (block ++ (t.mem.ecall.drop (j * p.ecPerBlock)).take p.ecPerBlock) p.ecPerBlock =
          List.replicate p.ecPerBlock 0) ∧
      ((∃ a l, i = .asmEncode a l) → t.bsLen.toNat = 8 * p.totalData ∧ finalize t.bs = t.mem.data)) ∧
  ∀ s t u : State, s.Inv → s.fault = false → exec .asmData s = .next t → t.fault = false →
    exec .asmBlocks t = .next u → u.fault = false →
    ∃ p, u.cfg.profile? u.version.toNat u.level.toNat = some p ∧ u.bsLen.toNat = 8 * p.totalData ∧
      finalize u.bs = u.mem.data
end

