-- ==== Sys2Proof/Laws/Bits.lean ====
section
/-! SUPPORT. Lengths of bit sequences and of the bytes they pack to (00_scope.md R9, 10_state.md R31). -/

namespace Sys2Proof

@[simp] theorem bitsOf_length (v n : Nat) : (bitsOf v n).length = n := by
  induction n with
  | zero => rfl
  | succ n ih => simp [bitsOf, ih]

@[simp] theorem zeroBits_length (n : Nat) : (zeroBits n).length = n := by simp [zeroBits]

@[simp] theorem zeroBytes_length (n : Nat) : (zeroBytes n).length = n := by simp [zeroBytes]

@[simp] theorem packBytes_length (n : Nat) (bits : List Bool) : (packBytes n bits).length = n := by
  induction n generalizing bits with
  | zero => rfl
  | succ n ih => simp [packBytes, ih]

@[simp] theorem finalize_length (bits : List Bool) : (finalize bits).length = ceilBytes bits.length := by
  simp [finalize]

/-- A sequence of whole bytes packs to that many bytes. -/
theorem ceilBytes_eight_mul (d : Nat) : ceilBytes (8 * d) = d := by unfold ceilBytes; omega

end Sys2Proof
end

