-- ==== Sys2Proof/Laws/State.lean ====
section
/-! SUPPORT. One lemma per field per update of `State`: what each named update writes and what it leaves. -/

namespace Sys2Proof.Machine

/-! ## setRes -/

@[simp] theorem State.setRes_cfg (s : State) (v : Word) : (s.setRes v).cfg = s.cfg := rfl
@[simp] theorem State.setRes_inbox (s : State) (v : Word) : (s.setRes v).inbox = s.inbox := rfl
@[simp] theorem State.setRes_res (s : State) (v : Word) : (s.setRes v).res = v := rfl
@[simp] theorem State.setRes_errinfo (s : State) (v : Word) : (s.setRes v).errinfo = s.errinfo := rfl
@[simp] theorem State.setRes_mode (s : State) (v : Word) : (s.setRes v).mode = s.mode := rfl
@[simp] theorem State.setRes_level (s : State) (v : Word) : (s.setRes v).level = s.level := rfl
@[simp] theorem State.setRes_version (s : State) (v : Word) : (s.setRes v).version = s.version := rfl
@[simp] theorem State.setRes_count (s : State) (v : Word) : (s.setRes v).count = s.count := rfl
@[simp] theorem State.setRes_genR (s : State) (v : Word) : (s.setRes v).genR = s.genR := rfl
@[simp] theorem State.setRes_bsLen (s : State) (v : Word) : (s.setRes v).bsLen = s.bsLen := rfl
@[simp] theorem State.setRes_rdSrc (s : State) (v : Word) : (s.setRes v).rdSrc = s.rdSrc := rfl
@[simp] theorem State.setRes_rdByte (s : State) (v : Word) : (s.setRes v).rdByte = s.rdByte := rfl
@[simp] theorem State.setRes_rdBit (s : State) (v : Word) : (s.setRes v).rdBit = s.rdBit := rfl
@[simp] theorem State.setRes_rdLen (s : State) (v : Word) : (s.setRes v).rdLen = s.rdLen := rfl
@[simp] theorem State.setRes_nblocks (s : State) (v : Word) : (s.setRes v).nblocks = s.nblocks := rfl
@[simp] theorem State.setRes_ecpb (s : State) (v : Word) : (s.setRes v).ecpb = s.ecpb := rfl
@[simp] theorem State.setRes_fault (s : State) (v : Word) : (s.setRes v).fault = s.fault := rfl
@[simp] theorem State.setRes_selValid (s : State) (v : Word) : (s.setRes v).selValid = s.selValid := rfl
@[simp] theorem State.setRes_dataValid (s : State) (v : Word) : (s.setRes v).dataValid = s.dataValid := rfl
@[simp] theorem State.setRes_finalValid (s : State) (v : Word) : (s.setRes v).finalValid = s.finalValid := rfl
@[simp] theorem State.setRes_errcode (s : State) (v : Word) : (s.setRes v).errcode = s.errcode := rfl
@[simp] theorem State.setRes_bs (s : State) (v : Word) : (s.setRes v).bs = s.bs := rfl
@[simp] theorem State.setRes_mem (s : State) (v : Word) : (s.setRes v).mem = s.mem := rfl

/-! ## setResNat -/

@[simp] theorem State.setResNat_cfg (s : State) (v : Nat) : (s.setResNat v).cfg = s.cfg := rfl
@[simp] theorem State.setResNat_inbox (s : State) (v : Nat) : (s.setResNat v).inbox = s.inbox := rfl
@[simp] theorem State.setResNat_res (s : State) (v : Nat) : (s.setResNat v).res = BitVec.ofNat 32 v := rfl
@[simp] theorem State.setResNat_errinfo (s : State) (v : Nat) : (s.setResNat v).errinfo = s.errinfo := rfl
@[simp] theorem State.setResNat_mode (s : State) (v : Nat) : (s.setResNat v).mode = s.mode := rfl
@[simp] theorem State.setResNat_level (s : State) (v : Nat) : (s.setResNat v).level = s.level := rfl
@[simp] theorem State.setResNat_version (s : State) (v : Nat) : (s.setResNat v).version = s.version := rfl
@[simp] theorem State.setResNat_count (s : State) (v : Nat) : (s.setResNat v).count = s.count := rfl
@[simp] theorem State.setResNat_genR (s : State) (v : Nat) : (s.setResNat v).genR = s.genR := rfl
@[simp] theorem State.setResNat_bsLen (s : State) (v : Nat) : (s.setResNat v).bsLen = s.bsLen := rfl
@[simp] theorem State.setResNat_rdSrc (s : State) (v : Nat) : (s.setResNat v).rdSrc = s.rdSrc := rfl
@[simp] theorem State.setResNat_rdByte (s : State) (v : Nat) : (s.setResNat v).rdByte = s.rdByte := rfl
@[simp] theorem State.setResNat_rdBit (s : State) (v : Nat) : (s.setResNat v).rdBit = s.rdBit := rfl
@[simp] theorem State.setResNat_rdLen (s : State) (v : Nat) : (s.setResNat v).rdLen = s.rdLen := rfl
@[simp] theorem State.setResNat_nblocks (s : State) (v : Nat) : (s.setResNat v).nblocks = s.nblocks := rfl
@[simp] theorem State.setResNat_ecpb (s : State) (v : Nat) : (s.setResNat v).ecpb = s.ecpb := rfl
@[simp] theorem State.setResNat_fault (s : State) (v : Nat) : (s.setResNat v).fault = s.fault := rfl
@[simp] theorem State.setResNat_selValid (s : State) (v : Nat) : (s.setResNat v).selValid = s.selValid := rfl
@[simp] theorem State.setResNat_dataValid (s : State) (v : Nat) : (s.setResNat v).dataValid = s.dataValid := rfl
@[simp] theorem State.setResNat_finalValid (s : State) (v : Nat) : (s.setResNat v).finalValid = s.finalValid := rfl
@[simp] theorem State.setResNat_errcode (s : State) (v : Nat) : (s.setResNat v).errcode = s.errcode := rfl
@[simp] theorem State.setResNat_bs (s : State) (v : Nat) : (s.setResNat v).bs = s.bs := rfl
@[simp] theorem State.setResNat_mem (s : State) (v : Nat) : (s.setResNat v).mem = s.mem := rfl

/-! ## setBuf -/

@[simp] theorem State.setBuf_cfg (s : State) (b : BufId) (bytes : List Byte) : (s.setBuf b bytes).cfg = s.cfg := rfl
@[simp] theorem State.setBuf_inbox (s : State) (b : BufId) (bytes : List Byte) : (s.setBuf b bytes).inbox = s.inbox := rfl
@[simp] theorem State.setBuf_res (s : State) (b : BufId) (bytes : List Byte) : (s.setBuf b bytes).res = s.res := rfl
@[simp] theorem State.setBuf_errinfo (s : State) (b : BufId) (bytes : List Byte) : (s.setBuf b bytes).errinfo = s.errinfo := rfl
@[simp] theorem State.setBuf_mode (s : State) (b : BufId) (bytes : List Byte) : (s.setBuf b bytes).mode = s.mode := rfl
@[simp] theorem State.setBuf_level (s : State) (b : BufId) (bytes : List Byte) : (s.setBuf b bytes).level = s.level := rfl
@[simp] theorem State.setBuf_version (s : State) (b : BufId) (bytes : List Byte) : (s.setBuf b bytes).version = s.version := rfl
@[simp] theorem State.setBuf_count (s : State) (b : BufId) (bytes : List Byte) : (s.setBuf b bytes).count = s.count := rfl
@[simp] theorem State.setBuf_genR (s : State) (b : BufId) (bytes : List Byte) : (s.setBuf b bytes).genR = s.genR := rfl
@[simp] theorem State.setBuf_bsLen (s : State) (b : BufId) (bytes : List Byte) : (s.setBuf b bytes).bsLen = s.bsLen := rfl
@[simp] theorem State.setBuf_rdSrc (s : State) (b : BufId) (bytes : List Byte) : (s.setBuf b bytes).rdSrc = s.rdSrc := rfl
@[simp] theorem State.setBuf_rdByte (s : State) (b : BufId) (bytes : List Byte) : (s.setBuf b bytes).rdByte = s.rdByte := rfl
@[simp] theorem State.setBuf_rdBit (s : State) (b : BufId) (bytes : List Byte) : (s.setBuf b bytes).rdBit = s.rdBit := rfl
@[simp] theorem State.setBuf_rdLen (s : State) (b : BufId) (bytes : List Byte) : (s.setBuf b bytes).rdLen = s.rdLen := rfl
@[simp] theorem State.setBuf_nblocks (s : State) (b : BufId) (bytes : List Byte) : (s.setBuf b bytes).nblocks = s.nblocks := rfl
@[simp] theorem State.setBuf_ecpb (s : State) (b : BufId) (bytes : List Byte) : (s.setBuf b bytes).ecpb = s.ecpb := rfl
@[simp] theorem State.setBuf_fault (s : State) (b : BufId) (bytes : List Byte) : (s.setBuf b bytes).fault = s.fault := rfl
@[simp] theorem State.setBuf_selValid (s : State) (b : BufId) (bytes : List Byte) : (s.setBuf b bytes).selValid = s.selValid := rfl
@[simp] theorem State.setBuf_dataValid (s : State) (b : BufId) (bytes : List Byte) : (s.setBuf b bytes).dataValid = s.dataValid := rfl
@[simp] theorem State.setBuf_finalValid (s : State) (b : BufId) (bytes : List Byte) : (s.setBuf b bytes).finalValid = s.finalValid := rfl
@[simp] theorem State.setBuf_errcode (s : State) (b : BufId) (bytes : List Byte) : (s.setBuf b bytes).errcode = s.errcode := rfl
@[simp] theorem State.setBuf_bs (s : State) (b : BufId) (bytes : List Byte) : (s.setBuf b bytes).bs = s.bs := rfl
@[simp] theorem State.setBuf_mem (s : State) (b : BufId) (bytes : List Byte) : (s.setBuf b bytes).mem = s.mem.put b bytes := rfl

/-! ## setStream -/

@[simp] theorem State.setStream_cfg (s : State) (bits : List Bool) : (s.setStream bits).cfg = s.cfg := rfl
@[simp] theorem State.setStream_inbox (s : State) (bits : List Bool) : (s.setStream bits).inbox = s.inbox := rfl
@[simp] theorem State.setStream_res (s : State) (bits : List Bool) : (s.setStream bits).res = s.res := rfl
@[simp] theorem State.setStream_errinfo (s : State) (bits : List Bool) : (s.setStream bits).errinfo = s.errinfo := rfl
@[simp] theorem State.setStream_mode (s : State) (bits : List Bool) : (s.setStream bits).mode = s.mode := rfl
@[simp] theorem State.setStream_level (s : State) (bits : List Bool) : (s.setStream bits).level = s.level := rfl
@[simp] theorem State.setStream_version (s : State) (bits : List Bool) : (s.setStream bits).version = s.version := rfl
@[simp] theorem State.setStream_count (s : State) (bits : List Bool) : (s.setStream bits).count = s.count := rfl
@[simp] theorem State.setStream_genR (s : State) (bits : List Bool) : (s.setStream bits).genR = s.genR := rfl
@[simp] theorem State.setStream_bsLen (s : State) (bits : List Bool) : (s.setStream bits).bsLen = BitVec.ofNat 32 bits.length := rfl
@[simp] theorem State.setStream_rdSrc (s : State) (bits : List Bool) : (s.setStream bits).rdSrc = s.rdSrc := rfl
@[simp] theorem State.setStream_rdByte (s : State) (bits : List Bool) : (s.setStream bits).rdByte = s.rdByte := rfl
@[simp] theorem State.setStream_rdBit (s : State) (bits : List Bool) : (s.setStream bits).rdBit = s.rdBit := rfl
@[simp] theorem State.setStream_rdLen (s : State) (bits : List Bool) : (s.setStream bits).rdLen = s.rdLen := rfl
@[simp] theorem State.setStream_nblocks (s : State) (bits : List Bool) : (s.setStream bits).nblocks = s.nblocks := rfl
@[simp] theorem State.setStream_ecpb (s : State) (bits : List Bool) : (s.setStream bits).ecpb = s.ecpb := rfl
@[simp] theorem State.setStream_fault (s : State) (bits : List Bool) : (s.setStream bits).fault = s.fault := rfl
@[simp] theorem State.setStream_selValid (s : State) (bits : List Bool) : (s.setStream bits).selValid = s.selValid := rfl
@[simp] theorem State.setStream_dataValid (s : State) (bits : List Bool) : (s.setStream bits).dataValid = s.dataValid := rfl
@[simp] theorem State.setStream_finalValid (s : State) (bits : List Bool) : (s.setStream bits).finalValid = s.finalValid := rfl
@[simp] theorem State.setStream_errcode (s : State) (bits : List Bool) : (s.setStream bits).errcode = s.errcode := rfl
@[simp] theorem State.setStream_bs (s : State) (bits : List Bool) : (s.setStream bits).bs = bits := rfl
@[simp] theorem State.setStream_mem (s : State) (bits : List Bool) : (s.setStream bits).mem = s.mem := rfl

/-! ## recordFault -/

@[simp] theorem recordFault_cfg (s : State) (c : FaultCode) (info : Word) : (recordFault c info s).cfg = s.cfg := rfl
@[simp] theorem recordFault_inbox (s : State) (c : FaultCode) (info : Word) : (recordFault c info s).inbox = s.inbox := rfl
@[simp] theorem recordFault_res (s : State) (c : FaultCode) (info : Word) : (recordFault c info s).res = s.res := rfl
@[simp] theorem recordFault_errinfo (s : State) (c : FaultCode) (info : Word) : (recordFault c info s).errinfo = info := rfl
@[simp] theorem recordFault_mode (s : State) (c : FaultCode) (info : Word) : (recordFault c info s).mode = s.mode := rfl
@[simp] theorem recordFault_level (s : State) (c : FaultCode) (info : Word) : (recordFault c info s).level = s.level := rfl
@[simp] theorem recordFault_version (s : State) (c : FaultCode) (info : Word) : (recordFault c info s).version = s.version := rfl
@[simp] theorem recordFault_count (s : State) (c : FaultCode) (info : Word) : (recordFault c info s).count = s.count := rfl
@[simp] theorem recordFault_genR (s : State) (c : FaultCode) (info : Word) : (recordFault c info s).genR = s.genR := rfl
@[simp] theorem recordFault_bsLen (s : State) (c : FaultCode) (info : Word) : (recordFault c info s).bsLen = s.bsLen := rfl
@[simp] theorem recordFault_rdSrc (s : State) (c : FaultCode) (info : Word) : (recordFault c info s).rdSrc = s.rdSrc := rfl
@[simp] theorem recordFault_rdByte (s : State) (c : FaultCode) (info : Word) : (recordFault c info s).rdByte = s.rdByte := rfl
@[simp] theorem recordFault_rdBit (s : State) (c : FaultCode) (info : Word) : (recordFault c info s).rdBit = s.rdBit := rfl
@[simp] theorem recordFault_rdLen (s : State) (c : FaultCode) (info : Word) : (recordFault c info s).rdLen = s.rdLen := rfl
@[simp] theorem recordFault_nblocks (s : State) (c : FaultCode) (info : Word) : (recordFault c info s).nblocks = s.nblocks := rfl
@[simp] theorem recordFault_ecpb (s : State) (c : FaultCode) (info : Word) : (recordFault c info s).ecpb = s.ecpb := rfl
@[simp] theorem recordFault_fault (s : State) (c : FaultCode) (info : Word) : (recordFault c info s).fault = true := rfl
@[simp] theorem recordFault_selValid (s : State) (c : FaultCode) (info : Word) : (recordFault c info s).selValid = s.selValid := rfl
@[simp] theorem recordFault_dataValid (s : State) (c : FaultCode) (info : Word) : (recordFault c info s).dataValid = s.dataValid := rfl
@[simp] theorem recordFault_finalValid (s : State) (c : FaultCode) (info : Word) : (recordFault c info s).finalValid = s.finalValid := rfl
@[simp] theorem recordFault_errcode (s : State) (c : FaultCode) (info : Word) : (recordFault c info s).errcode = c.code := rfl
@[simp] theorem recordFault_bs (s : State) (c : FaultCode) (info : Word) : (recordFault c info s).bs = s.bs := rfl
@[simp] theorem recordFault_mem (s : State) (c : FaultCode) (info : Word) : (recordFault c info s).mem = s.mem := rfl

/-! ## inputChanged -/

/-- Only SEL_VALID can change, and only by a write to INBUF (R281). -/
theorem State.inputChanged_eq (s : State) (b : BufId) :
    s.inputChanged b = { s with selValid := s.selValid && decide (b ≠ .inbuf) } := by
  cases b <;> simp [State.inputChanged]

@[simp] theorem State.inputChanged_cfg (s : State) (b : BufId) : (s.inputChanged b).cfg = s.cfg := by cases b <;> rfl
@[simp] theorem State.inputChanged_inbox (s : State) (b : BufId) : (s.inputChanged b).inbox = s.inbox := by cases b <;> rfl
@[simp] theorem State.inputChanged_res (s : State) (b : BufId) : (s.inputChanged b).res = s.res := by cases b <;> rfl
@[simp] theorem State.inputChanged_errinfo (s : State) (b : BufId) : (s.inputChanged b).errinfo = s.errinfo := by cases b <;> rfl
@[simp] theorem State.inputChanged_mode (s : State) (b : BufId) : (s.inputChanged b).mode = s.mode := by cases b <;> rfl
@[simp] theorem State.inputChanged_level (s : State) (b : BufId) : (s.inputChanged b).level = s.level := by cases b <;> rfl
@[simp] theorem State.inputChanged_version (s : State) (b : BufId) : (s.inputChanged b).version = s.version := by cases b <;> rfl
@[simp] theorem State.inputChanged_count (s : State) (b : BufId) : (s.inputChanged b).count = s.count := by cases b <;> rfl
@[simp] theorem State.inputChanged_genR (s : State) (b : BufId) : (s.inputChanged b).genR = s.genR := by cases b <;> rfl
@[simp] theorem State.inputChanged_bsLen (s : State) (b : BufId) : (s.inputChanged b).bsLen = s.bsLen := by cases b <;> rfl
@[simp] theorem State.inputChanged_rdSrc (s : State) (b : BufId) : (s.inputChanged b).rdSrc = s.rdSrc := by cases b <;> rfl
@[simp] theorem State.inputChanged_rdByte (s : State) (b : BufId) : (s.inputChanged b).rdByte = s.rdByte := by cases b <;> rfl
@[simp] theorem State.inputChanged_rdBit (s : State) (b : BufId) : (s.inputChanged b).rdBit = s.rdBit := by cases b <;> rfl
@[simp] theorem State.inputChanged_rdLen (s : State) (b : BufId) : (s.inputChanged b).rdLen = s.rdLen := by cases b <;> rfl
@[simp] theorem State.inputChanged_nblocks (s : State) (b : BufId) : (s.inputChanged b).nblocks = s.nblocks := by cases b <;> rfl
@[simp] theorem State.inputChanged_ecpb (s : State) (b : BufId) : (s.inputChanged b).ecpb = s.ecpb := by cases b <;> rfl
@[simp] theorem State.inputChanged_fault (s : State) (b : BufId) : (s.inputChanged b).fault = s.fault := by cases b <;> rfl
@[simp] theorem State.inputChanged_dataValid (s : State) (b : BufId) : (s.inputChanged b).dataValid = s.dataValid := by cases b <;> rfl
@[simp] theorem State.inputChanged_finalValid (s : State) (b : BufId) : (s.inputChanged b).finalValid = s.finalValid := by cases b <;> rfl
@[simp] theorem State.inputChanged_errcode (s : State) (b : BufId) : (s.inputChanged b).errcode = s.errcode := by cases b <;> rfl
@[simp] theorem State.inputChanged_bs (s : State) (b : BufId) : (s.inputChanged b).bs = s.bs := by cases b <;> rfl
@[simp] theorem State.inputChanged_mem (s : State) (b : BufId) : (s.inputChanged b).mem = s.mem := by cases b <;> rfl

/-! ## advanceReader -/

@[simp] theorem State.advanceReader_cfg (s : State) : s.advanceReader.cfg = s.cfg := by
  unfold State.advanceReader; split <;> rfl
@[simp] theorem State.advanceReader_inbox (s : State) : s.advanceReader.inbox = s.inbox := by
  unfold State.advanceReader; split <;> rfl
@[simp] theorem State.advanceReader_res (s : State) : s.advanceReader.res = s.res := by
  unfold State.advanceReader; split <;> rfl
@[simp] theorem State.advanceReader_errinfo (s : State) : s.advanceReader.errinfo = s.errinfo := by
  unfold State.advanceReader; split <;> rfl
@[simp] theorem State.advanceReader_mode (s : State) : s.advanceReader.mode = s.mode := by
  unfold State.advanceReader; split <;> rfl
@[simp] theorem State.advanceReader_level (s : State) : s.advanceReader.level = s.level := by
  unfold State.advanceReader; split <;> rfl
@[simp] theorem State.advanceReader_version (s : State) : s.advanceReader.version = s.version := by
  unfold State.advanceReader; split <;> rfl
@[simp] theorem State.advanceReader_count (s : State) : s.advanceReader.count = s.count := by
  unfold State.advanceReader; split <;> rfl
@[simp] theorem State.advanceReader_genR (s : State) : s.advanceReader.genR = s.genR := by
  unfold State.advanceReader; split <;> rfl
@[simp] theorem State.advanceReader_bsLen (s : State) : s.advanceReader.bsLen = s.bsLen := by
  unfold State.advanceReader; split <;> rfl
@[simp] theorem State.advanceReader_rdSrc (s : State) : s.advanceReader.rdSrc = s.rdSrc := by
  unfold State.advanceReader; split <;> rfl
@[simp] theorem State.advanceReader_rdLen (s : State) : s.advanceReader.rdLen = s.rdLen := by
  unfold State.advanceReader; split <;> rfl
@[simp] theorem State.advanceReader_nblocks (s : State) : s.advanceReader.nblocks = s.nblocks := by
  unfold State.advanceReader; split <;> rfl
@[simp] theorem State.advanceReader_ecpb (s : State) : s.advanceReader.ecpb = s.ecpb := by
  unfold State.advanceReader; split <;> rfl
@[simp] theorem State.advanceReader_fault (s : State) : s.advanceReader.fault = s.fault := by
  unfold State.advanceReader; split <;> rfl
@[simp] theorem State.advanceReader_selValid (s : State) : s.advanceReader.selValid = s.selValid := by
  unfold State.advanceReader; split <;> rfl
@[simp] theorem State.advanceReader_dataValid (s : State) : s.advanceReader.dataValid = s.dataValid := by
  unfold State.advanceReader; split <;> rfl
@[simp] theorem State.advanceReader_finalValid (s : State) : s.advanceReader.finalValid = s.finalValid := by
  unfold State.advanceReader; split <;> rfl
@[simp] theorem State.advanceReader_errcode (s : State) : s.advanceReader.errcode = s.errcode := by
  unfold State.advanceReader; split <;> rfl
@[simp] theorem State.advanceReader_bs (s : State) : s.advanceReader.bs = s.bs := by
  unfold State.advanceReader; split <;> rfl
@[simp] theorem State.advanceReader_mem (s : State) : s.advanceReader.mem = s.mem := by
  unfold State.advanceReader; split <;> rfl

/-! ## applyReset (R450) -/

@[simp] theorem applyReset_cfg (s : State) : (applyReset s).cfg = s.cfg := rfl
@[simp] theorem applyReset_inbox (s : State) : (applyReset s).inbox = s.inbox := rfl
@[simp] theorem applyReset_res (s : State) : (applyReset s).res = 0 := rfl
@[simp] theorem applyReset_errinfo (s : State) : (applyReset s).errinfo = 0 := rfl
@[simp] theorem applyReset_mode (s : State) : (applyReset s).mode = 0 := rfl
@[simp] theorem applyReset_level (s : State) : (applyReset s).level = 0 := rfl
@[simp] theorem applyReset_version (s : State) : (applyReset s).version = 0 := rfl
@[simp] theorem applyReset_count (s : State) : (applyReset s).count = 0 := rfl
@[simp] theorem applyReset_genR (s : State) : (applyReset s).genR = 0 := rfl
@[simp] theorem applyReset_bsLen (s : State) : (applyReset s).bsLen = 0 := rfl
@[simp] theorem applyReset_rdSrc (s : State) : (applyReset s).rdSrc = 0 := rfl
@[simp] theorem applyReset_rdByte (s : State) : (applyReset s).rdByte = 0 := rfl
@[simp] theorem applyReset_rdBit (s : State) : (applyReset s).rdBit = 0 := rfl
@[simp] theorem applyReset_rdLen (s : State) : (applyReset s).rdLen = 0 := rfl
@[simp] theorem applyReset_nblocks (s : State) : (applyReset s).nblocks = 0 := rfl
@[simp] theorem applyReset_ecpb (s : State) : (applyReset s).ecpb = 0 := rfl
@[simp] theorem applyReset_fault (s : State) : (applyReset s).fault = false := rfl
@[simp] theorem applyReset_selValid (s : State) : (applyReset s).selValid = false := rfl
@[simp] theorem applyReset_dataValid (s : State) : (applyReset s).dataValid = false := rfl
@[simp] theorem applyReset_finalValid (s : State) : (applyReset s).finalValid = false := rfl
@[simp] theorem applyReset_errcode (s : State) : (applyReset s).errcode = 0 := rfl
@[simp] theorem applyReset_bs (s : State) : (applyReset s).bs = [] := rfl
@[simp] theorem applyReset_mem (s : State) : (applyReset s).mem = Memory.empty := rfl

end Sys2Proof.Machine
end

