-- ==== Sys2Proof/Laws/Memory.lean ====
section
/-! SUPPORT. Reads after writes of the buffers (20_memory.md R50, R51), and that a write within the capacity keeps every
buffer within its capacity. -/

namespace Sys2Proof.Machine

@[simp] theorem Memory.get_put_same (m : Memory) {b : BufId} (bytes : List Byte) (h : b ≠ .bsbytes) :
    (m.put b bytes).get b = bytes := by
  cases b <;> first | rfl | exact absurd rfl h

@[simp] theorem Memory.get_put_other (m : Memory) {b b' : BufId} (bytes : List Byte) (h : b' ≠ b) :
    (m.put b bytes).get b' = m.get b' := by
  cases b <;> cases b' <;> first | rfl | exact absurd rfl h

/-- BSBYTES holds nothing of its own (R33). -/
@[simp] theorem Memory.get_bsbytes (m : Memory) : m.get .bsbytes = [] := rfl

theorem Memory.wf_iff (cfg : Config) (m : Memory) :
    m.wf cfg = true ↔ ∀ b, (m.get b).length ≤ bufCapacity cfg b := by
  constructor
  · intro h b
    simp only [Memory.wf, List.all_cons, List.all_nil, Bool.and_true, Bool.and_eq_true, decide_eq_true_eq] at h
    cases b <;> simp_all
  · intro h
    simp only [Memory.wf, List.all_eq_true, decide_eq_true_eq]
    exact fun b _ => h b

/-- The one memory operation keeps the form. -/
theorem Memory.wf_put {cfg : Config} {m : Memory} {b : BufId} {bytes : List Byte} (h : m.wf cfg = true)
    (hb : bytes.length ≤ bufCapacity cfg b) : (m.put b bytes).wf cfg = true := by
  rw [Memory.wf_iff] at h ⊢
  intro b'
  by_cases e : b' = b
  · subst e
    by_cases e' : b' = .bsbytes
    · subst e'; simp
    · simpa [e'] using hb
  · simpa [e] using h b'

theorem Memory.wf_empty (cfg : Config) : Memory.empty.wf cfg = true := by
  rw [Memory.wf_iff]; intro b; cases b <;> simp [Memory.empty, Memory.get]

/-- The memory after reset has the form (R450). -/
theorem reset_memory_wf : State.reset.mem.wf State.reset.cfg = true := Memory.wf_empty _

/-! ## What a read of a buffer sees -/

@[simp] theorem State.bufBytes_bsbytes (s : State) : s.bufBytes .bsbytes = finalize s.bs := rfl

theorem State.bufBytes_eq_get (s : State) {b : BufId} (h : b ≠ .bsbytes) : s.bufBytes b = s.mem.get b := by
  cases b <;> first | rfl | exact absurd rfl h

/-- Two states with the same bitstream and the same bytes in a buffer read the same there. -/
theorem State.bufBytes_congr {s t : State} {b : BufId} (hbs : s.bs = t.bs) (hm : s.mem.get b = t.mem.get b) :
    s.bufBytes b = t.bufBytes b := by
  cases b <;> simp_all [State.bufBytes, Memory.get]

/-- A write of one buffer is seen by a read of that buffer alone. -/
theorem State.readByte_setBuf_other (s : State) {b b' : BufId} (bytes : List Byte) (h : b' ≠ b) (i : Nat) :
    (s.setBuf b bytes).readByte b' i = s.readByte b' i := by
  unfold State.readByte
  rw [State.bufBytes_congr (s := s.setBuf b bytes) (t := s) rfl (by simp [h])]

end Sys2Proof.Machine
end

