-- ==== Sys2Proof/Laws/Ops.lean ====
section
/-! SUPPORT. What each shared operation can do: the gate of R403, the fault record of R402, and the step. -/

namespace Sys2Proof.Machine

/-! ## commit, gated, ungated -/

@[simp] theorem commit_done (s t : State) : commit s (.done t) = .next t := rfl

@[simp] theorem commit_raise (s : State) (c : FaultCode) (info : Word) :
    commit s (.raise c info) = .next (recordFault c info s) := rfl

@[simp] theorem commit_undefined (s : State) (why : Fault) : commit s (.undefined why) = .fault why := rfl

theorem gated_of_fault {s : State} (h : s.fault = true) (e : Effect) : gated s e = .next s := by simp [gated, h]

theorem gated_of_ok {s : State} (h : s.fault = false) (e : Effect) : gated s e = commit s e := by simp [gated, h]

theorem ungated_of_ok {s : State} (h : s.fault = false) (e : Effect) : ungated s e = commit s e := by simp [ungated, h]

@[simp] theorem ungated_done (s t : State) : ungated s (.done t) = .next t := by
  unfold ungated; split <;> simp

theorem ungated_raise_of_fault {s : State} (h : s.fault = true) (c : FaultCode) (info : Word) :
    ungated s (.raise c info) = .next s := by simp [ungated, h]

/-- A next state of `commit` is the effect's own, or the fault record over the state it began in. -/
theorem commit_next_cases {s t : State} {e : Effect} (h : commit s e = .next t) :
    e = .done t ∨ ∃ c info, e = .raise c info ∧ t = recordFault c info s := by
  cases e with
  | done u => simp at h; exact .inl (by rw [h])
  | raise c info => simp at h; exact .inr ⟨c, info, rfl, h.symm⟩
  | undefined why => simp at h

/-- Everything a gated command can do when it answers a next state. -/
theorem gated_next_cases {s t : State} {e : Effect} (h : gated s e = .next t) :
    (s.fault = true ∧ t = s) ∨ (s.fault = false ∧ e = .done t) ∨
      (s.fault = false ∧ ∃ c info, e = .raise c info ∧ t = recordFault c info s) := by
  cases hf : s.fault
  · rw [gated_of_ok hf] at h
    rcases commit_next_cases h with h | h
    · exact .inr (.inl ⟨rfl, h⟩)
    · exact .inr (.inr ⟨rfl, h⟩)
  · rw [gated_of_fault hf] at h
    simp at h
    exact .inl ⟨rfl, h.symm⟩

/-- Everything NOP, REG_READ and RESET can do when they answer a next state. -/
theorem ungated_next_cases {s t : State} {e : Effect} (h : ungated s e = .next t) :
    e = .done t ∨ ∃ c info, e = .raise c info ∧ t = if s.fault then s else recordFault c info s := by
  cases e with
  | done u => simp at h; exact .inl (by rw [h])
  | raise c info =>
    refine .inr ⟨c, info, rfl, ?_⟩
    unfold ungated at h
    split at h <;> simp_all
  | undefined why => unfold ungated at h; split at h <;> simp_all

/-! ## andThen, appendBits -/

@[simp] theorem Effect.andThen_done (s : State) (k : State → Effect) : (Effect.done s).andThen k = k s := rfl

@[simp] theorem Effect.andThen_raise (c : FaultCode) (info : Word) (k : State → Effect) :
    (Effect.raise c info).andThen k = .raise c info := rfl

@[simp] theorem Effect.andThen_undefined (why : Fault) (k : State → Effect) :
    (Effect.undefined why).andThen k = .undefined why := rfl

/-- A composed effect completes only through a completed first stage. -/
theorem Effect.andThen_done_cases {e : Effect} {k : State → Effect} {t : State} (h : e.andThen k = .done t) :
    ∃ s, e = .done s ∧ k s = .done t := by
  cases e with
  | done s => exact ⟨s, rfl, h⟩
  | raise c info => simp at h
  | undefined why => simp at h

theorem appendBits_of_room {s : State} {bits : List Bool} (h : s.bs.length + bits.length ≤ s.cfg.bsMaxBits) :
    appendBits s bits = .done (s.setStream (s.bs ++ bits)) := by
  unfold appendBits; rw [if_neg (by omega)]

theorem appendBits_of_full {s : State} {bits : List Bool} (h : s.cfg.bsMaxBits < s.bs.length + bits.length) :
    appendBits s bits = .raise .bufferOverflow 5 := by
  unfold appendBits; rw [if_pos h]

theorem appendBits_done_cases {s t : State} {bits : List Bool} (h : appendBits s bits = .done t) :
    s.bs.length + bits.length ≤ s.cfg.bsMaxBits ∧ t = s.setStream (s.bs ++ bits) := by
  unfold appendBits at h
  split at h
  · simp at h
  · simp at h; exact ⟨by omega, h.symm⟩

/-! ## step -/

/-- Everything a step can do when it answers a next state. -/
theorem step_next_cases {s t : State} (h : step s = .next t) :
    s.cfg.wf = true ∧
      ((s.inbox = [] ∧ t = s) ∨
        (∃ rest, s.inbox = .resetInput :: rest ∧ t = applyReset { s with inbox := rest }) ∨
        ∃ w rest, s.inbox = .word w :: rest ∧
          ((∃ why, decode w = .illegal why ∧ illegalWord (opField w) { s with inbox := rest } = .next t) ∨
            ∃ i, decode w = .command i ∧ exec i { s with inbox := rest } = .next t)) := by
  unfold step at h
  split at h
  case isFalse => simp at h
  case isTrue hw =>
    refine ⟨hw, ?_⟩
    unfold takeInput at h
    cases hi : s.inbox with
    | nil => simp [hi] at h; exact .inl ⟨rfl, h.symm⟩
    | cons x rest =>
      cases x with
      | resetInput => simp [hi] at h; exact .inr (.inl ⟨rest, rfl, h.symm⟩)
      | word w =>
        refine .inr (.inr ⟨w, rest, rfl, ?_⟩)
        simp only [hi] at h
        cases hd : decode w with
        | illegal why => rw [hd] at h; exact .inl ⟨why, rfl, h⟩
        | command i => rw [hd] at h; exact .inr ⟨i, rfl, h⟩

end Sys2Proof.Machine
end

