-- ==== Sys2Proof/Laws/Effects.lean ====
section
/-! SUPPORT. What the pseudocode of each command can do: when it completes, the state it gives and the checks it passed;
when it raises, the fault. Later proofs cite these instead of unfolding the commands. -/

namespace Sys2Proof.Machine

/-! ## Host access -/

theorem regReadEffect_done_cases {n : Byte} {s t : State} (h : regReadEffect n s = .done t) :
    ∃ v, s.readReg n.toNat = some v ∧ t = s.setRes v := by
  unfold regReadEffect at h
  split at h <;> simp_all

theorem regReadEffect_raise_cases {n : Byte} {s : State} {c : FaultCode} {info : Word}
    (h : regReadEffect n s = .raise c info) : s.readReg n.toNat = none ∧ c = .illegalCommand ∧ info = 0x02 := by
  unfold regReadEffect at h
  split at h <;> simp_all

theorem bufClearEffect_done_cases {b : Byte} {s t : State} (h : bufClearEffect b s = .done t) :
    ∃ buf, BufId.ofWritableCode? b.toNat = some buf ∧ t = (s.setBuf buf []).inputChanged buf := by
  unfold bufClearEffect at h
  split at h <;> simp_all

theorem bufClearEffect_raise_cases {b : Byte} {s : State} {c : FaultCode} {info : Word}
    (h : bufClearEffect b s = .raise c info) :
    BufId.ofWritableCode? b.toNat = none ∧ c = .illegalCommand ∧ info = 0x03 := by
  unfold bufClearEffect at h
  split at h <;> simp_all

theorem bufPushEffect_done_cases {b v : Byte} {s t : State} (h : bufPushEffect b v s = .done t) :
    ∃ buf, BufId.ofWritableCode? b.toNat = some buf ∧ (s.mem.get buf).length ≠ bufCapacity s.cfg buf ∧
      t = (s.setBuf buf (s.mem.get buf ++ [v])).inputChanged buf := by
  unfold bufPushEffect at h
  split at h
  · rename_i buf hb
    split at h
    · simp at h
    · rename_i hlen
      simp at h
      exact ⟨buf, hb, hlen, h.symm⟩
  · simp at h

theorem bufPushEffect_raise_cases {b v : Byte} {s : State} {c : FaultCode} {info : Word}
    (h : bufPushEffect b v s = .raise c info) :
    (BufId.ofWritableCode? b.toNat = none ∧ c = .illegalCommand ∧ info = 0x04) ∨
      (∃ buf, BufId.ofWritableCode? b.toNat = some buf ∧ (s.mem.get buf).length = bufCapacity s.cfg buf ∧
        c = .bufferOverflow ∧ info = zextByte b) := by
  unfold bufPushEffect at h
  split at h
  · rename_i buf hb
    split at h
    · rename_i hlen
      simp at h
      exact .inr ⟨buf, hb, hlen, h.1.symm, h.2.symm⟩
    · simp at h
  · rename_i hb
    simp at h
    exact .inl ⟨hb, h.1.symm, h.2.symm⟩

theorem bufReadEffect_done_cases {b : Byte} {i : Word} {s t : State} (h : bufReadEffect b i s = .done t) :
    ∃ buf v, BufId.ofCode? b.toNat = some buf ∧ s.readByte buf i.toNat = some v ∧ t = s.setRes (zextByte v) := by
  unfold bufReadEffect at h
  split at h
  · rename_i buf hb
    split at h
    · rename_i v hv
      simp at h
      exact ⟨buf, v, hb, hv, h.symm⟩
    · simp at h
  · simp at h

theorem bufReadEffect_raise_cases {b : Byte} {i : Word} {s : State} {c : FaultCode} {info : Word}
    (h : bufReadEffect b i s = .raise c info) :
    (BufId.ofCode? b.toNat = none ∧ c = .illegalCommand ∧ info = 0x05) ∨
      (∃ buf, BufId.ofCode? b.toNat = some buf ∧ s.readByte buf i.toNat = none ∧
        c = .indexOutOfRange ∧ info = zextByte b) := by
  unfold bufReadEffect at h
  split at h
  · rename_i buf hb
    split at h
    · simp at h
    · rename_i hv
      simp at h
      exact .inr ⟨buf, hb, hv, h.1.symm, h.2.symm⟩
  · rename_i hb
    simp at h
    exact .inl ⟨hb, h.1.symm, h.2.symm⟩

theorem bufLenEffect_done_cases {b : Byte} {s t : State} (h : bufLenEffect b s = .done t) :
    ∃ buf, BufId.ofCode? b.toNat = some buf ∧ t = s.setResNat (s.bufLen buf) := by
  unfold bufLenEffect at h
  split at h <;> simp_all

theorem bufLenEffect_raise_cases {b : Byte} {s : State} {c : FaultCode} {info : Word}
    (h : bufLenEffect b s = .raise c info) : BufId.ofCode? b.toNat = none ∧ c = .illegalCommand ∧ info = 0x06 := by
  unfold bufLenEffect at h
  split at h <;> simp_all

/-! ## Bitstream -/

theorem appendBits_raise_cases {s : State} {bits : List Bool} {c : FaultCode} {info : Word}
    (h : appendBits s bits = .raise c info) :
    s.cfg.bsMaxBits < s.bs.length + bits.length ∧ c = .bufferOverflow ∧ info = 5 := by
  unfold appendBits at h
  split at h <;> simp_all

theorem appendBits_defined (s : State) (bits : List Bool) (why : Fault) : appendBits s bits ≠ .undefined why := by
  unfold appendBits; split <;> simp

theorem bsWriteEffect_done_cases {n : Byte} {value : Word} {s t : State} (h : bsWriteEffect n value s = .done t) :
    n.toNat ≤ 32 ∧ s.bs.length + (bitsOf value.toNat n.toNat).length ≤ s.cfg.bsMaxBits ∧
      t = s.setStream (s.bs ++ bitsOf value.toNat n.toNat) := by
  unfold bsWriteEffect at h
  split at h
  · rename_i hn
    exact ⟨of_decide_eq_true hn, appendBits_done_cases h⟩
  · simp at h

theorem bsWriteEffect_raise_cases {n : Byte} {value : Word} {s : State} {c : FaultCode} {info : Word}
    (h : bsWriteEffect n value s = .raise c info) :
    (bsWriteMax < n.toNat ∧ c = .illegalCommand ∧ info = 0x11) ∨ (n.toNat ≤ 32 ∧ c = .bufferOverflow ∧ info = 5) := by
  unfold bsWriteEffect at h
  split at h
  · rename_i hn
    exact .inr ⟨of_decide_eq_true hn, (appendBits_raise_cases h).2⟩
  · rename_i hn
    simp at h
    exact .inl ⟨by simpa [bitCountOk] using hn, h.1.symm, h.2.symm⟩

theorem rdInitEffect_done_cases {b : Byte} {s t : State} (h : rdInitEffect b s = .done t) :
    ∃ buf, BufId.ofCode? b.toNat = some buf ∧
      t = { s with rdSrc := zextByte b, rdByte := 0, rdBit := 0, rdLen := BitVec.ofNat 32 (s.bufLen buf) } := by
  unfold rdInitEffect at h
  split at h <;> simp_all

theorem rdInitEffect_raise_cases {b : Byte} {s : State} {c : FaultCode} {info : Word}
    (h : rdInitEffect b s = .raise c info) : BufId.ofCode? b.toNat = none ∧ c = .illegalCommand ∧ info = 0x14 := by
  unfold rdInitEffect at h
  split at h <;> simp_all

theorem rdBitEffect_done_cases {s t : State} (h : rdBitEffect s = .done t) :
    ∃ src v, BufId.ofCode? s.rdSrc.toNat = some src ∧ s.rdByte.toNat < s.rdLen.toNat ∧
      s.readByte src s.rdByte.toNat = some v ∧ s.rdBit.toNat ≤ 7 ∧
      t = (s.setRes (bitOfByte v s.rdBit.toNat)).advanceReader := by
  unfold rdBitEffect at h
  split at h
  · simp at h
  · rename_i src hsrc
    split at h
    · simp at h
    · rename_i hlen
      split at h
      · simp at h
      · rename_i v hv
        split at h
        · simp at h
        · rename_i hbit
          simp at h
          exact ⟨src, v, hsrc, by omega, hv, by omega, h.symm⟩

theorem rdBitEffect_raise_cases {s : State} {c : FaultCode} {info : Word} (h : rdBitEffect s = .raise c info) :
    ∃ src, BufId.ofCode? s.rdSrc.toNat = some src ∧
      (s.rdLen.toNat ≤ s.rdByte.toNat ∨ s.readByte src s.rdByte.toNat = none) ∧
      c = .indexOutOfRange ∧ info = s.rdSrc := by
  unfold rdBitEffect at h
  split at h
  · simp at h
  · rename_i src hsrc
    split at h
    · rename_i hlen
      simp at h
      exact ⟨src, hsrc, .inl hlen, h.1.symm, h.2.symm⟩
    · split at h
      · rename_i hv
        simp at h
        exact ⟨src, hsrc, .inr hv, h.1.symm, h.2.symm⟩
      · split at h <;> simp at h

/-! ## Field -/

theorem gfDivEffect_done_cases {a b : Byte} {s t : State} (h : gfDivEffect a b s = .done t) :
    ∃ q, gfDiv a b = some q ∧ t = s.setRes (zextByte q) := by
  unfold gfDivEffect at h
  split at h <;> simp_all

theorem gfDivEffect_raise_cases {a b : Byte} {s : State} {c : FaultCode} {info : Word}
    (h : gfDivEffect a b s = .raise c info) : gfDiv a b = none ∧ c = .domainError ∧ info = 0 := by
  unfold gfDivEffect at h
  split at h <;> simp_all

theorem gfLogEffect_done_cases {a : Byte} {s t : State} (h : gfLogEffect a s = .done t) :
    ∃ k, gfLog a = some k ∧ t = s.setResNat k := by
  unfold gfLogEffect at h
  split at h <;> simp_all

theorem gfLogEffect_raise_cases {a : Byte} {s : State} {c : FaultCode} {info : Word}
    (h : gfLogEffect a s = .raise c info) : gfLog a = none ∧ c = .domainError ∧ info = 0 := by
  unfold gfLogEffect at h
  split at h <;> simp_all

/-! ## Reed-Solomon -/

theorem rsGenEffect_done_cases {r : Byte} {s t : State} (h : rsGenEffect r s = .done t) :
    degreeOk s.cfg r.toNat = true ∧
      t = { s.setBuf .gen (buildGenerator r.toNat) with genR := zextByte r }.setResNat (r.toNat + 1) := by
  unfold rsGenEffect at h
  split at h <;> simp_all

theorem rsGenEffect_raise_cases {r : Byte} {s : State} {c : FaultCode} {info : Word}
    (h : rsGenEffect r s = .raise c info) : degreeOk s.cfg r.toNat = false ∧ c = .illegalCommand ∧ info = 0x30 := by
  unfold rsGenEffect at h
  split at h <;> simp_all

theorem rsEncEffect_done_cases {r : Byte} {s t : State} (h : rsEncEffect r s = .done t) :
    degreeOk s.cfg r.toNat = true ∧ t = (s.setBuf .rsout (generateEC s.mem.rsin r.toNat)).setRes (zextByte r) := by
  unfold rsEncEffect at h
  split at h <;> simp_all

theorem rsEncEffect_raise_cases {r : Byte} {s : State} {c : FaultCode} {info : Word}
    (h : rsEncEffect r s = .raise c info) : degreeOk s.cfg r.toNat = false ∧ c = .illegalCommand ∧ info = 0x31 := by
  unfold rsEncEffect at h
  split at h <;> simp_all

theorem rsSyndEffect_done_cases {r : Byte} {s t : State} (h : rsSyndEffect r s = .done t) :
    degreeOk s.cfg r.toNat = true ∧ ∃ v, t = (s.setBuf .synd (syndromes s.mem.rsin r.toNat)).setRes v := by
  unfold rsSyndEffect at h
  split at h
  · rename_i hd
    simp only [Effect.done.injEq] at h
    exact ⟨hd, _, h.symm⟩
  · simp at h

theorem rsSyndEffect_raise_cases {r : Byte} {s : State} {c : FaultCode} {info : Word}
    (h : rsSyndEffect r s = .raise c info) : degreeOk s.cfg r.toNat = false ∧ c = .illegalCommand ∧ info = 0x32 := by
  unfold rsSyndEffect at h
  split at h <;> simp_all

/-! ## Segments -/

theorem segCheckEffect_done_cases {m : Byte} {s t : State} (h : segCheckEffect m s = .done t) :
    ∃ mode, Mode.ofCode? m.toNat = some mode ∧ t = s.setRes (flagWord (representable mode s.mem.inbuf)) := by
  unfold segCheckEffect at h
  split at h <;> simp_all

theorem segCheckEffect_raise_cases {m : Byte} {s : State} {c : FaultCode} {info : Word}
    (h : segCheckEffect m s = .raise c info) :
    Mode.ofCode? m.toNat = none ∧ c = .invalidConfiguration ∧ info = zextByte m := by
  unfold segCheckEffect at h
  split at h <;> simp_all

theorem segCountEffect_done_cases {m : Byte} {s t : State} (h : segCountEffect m s = .done t) :
    ∃ mode, Mode.ofCode? m.toNat = some mode ∧ t = s.setResNat s.mem.inbuf.length := by
  unfold segCountEffect at h
  split at h <;> simp_all

theorem segCountEffect_raise_cases {m : Byte} {s : State} {c : FaultCode} {info : Word}
    (h : segCountEffect m s = .raise c info) :
    Mode.ofCode? m.toNat = none ∧ c = .invalidConfiguration ∧ info = zextByte m := by
  unfold segCountEffect at h
  split at h <;> simp_all

theorem segWriteEffect_done_cases {m : Byte} {s t : State} (h : segWriteEffect m s = .done t) :
    ∃ mode, Mode.ofCode? m.toNat = some mode ∧ firstInvalid mode s.mem.inbuf = none ∧
      s.bs.length + (payload mode s.mem.inbuf).length ≤ s.cfg.bsMaxBits ∧
      t = (s.setStream (s.bs ++ payload mode s.mem.inbuf)).setResNat (payload mode s.mem.inbuf).length := by
  unfold segWriteEffect at h
  split at h
  · simp at h
  · rename_i mode hm
    split at h
    · simp at h
    · rename_i hf
      obtain ⟨u, hu, hk⟩ := Effect.andThen_done_cases h
      obtain ⟨hlen, rfl⟩ := appendBits_done_cases hu
      simp at hk
      exact ⟨mode, hm, hf, hlen, hk.symm⟩

theorem segWriteEffect_raise_cases {m : Byte} {s : State} {c : FaultCode} {info : Word}
    (h : segWriteEffect m s = .raise c info) :
    (Mode.ofCode? m.toNat = none ∧ c = .invalidConfiguration ∧ info = zextByte m) ∨
      ∃ mode, Mode.ofCode? m.toNat = some mode ∧
        ((∃ p, firstInvalid mode s.mem.inbuf = some p ∧ c = .invalidCharacter ∧ info = BitVec.ofNat 32 p) ∨
          (firstInvalid mode s.mem.inbuf = none ∧ c = .bufferOverflow ∧ info = 5)) := by
  unfold segWriteEffect at h
  split at h
  · rename_i hm
    simp at h
    exact .inl ⟨hm, h.1.symm, h.2.symm⟩
  · rename_i mode hm
    refine .inr ⟨mode, hm, ?_⟩
    split at h
    · rename_i p hp
      simp at h
      exact .inl ⟨p, hp, h.1.symm, h.2.symm⟩
    · rename_i hf
      refine .inr ⟨hf, ?_⟩
      unfold appendBits at h
      split at h
      · simp at h; exact ⟨h.1.symm, h.2.symm⟩
      · simp at h

/-! ## Assembler stages -/

theorem selectStage_done_cases {a l : Byte} {s t : State} (h : selectStage a l s = .done t) :
    ∃ choice m v, ModeChoice.ofCode? a.toNat = some choice ∧ levelOk l.toNat = true ∧
      (match choice with | .auto => autoMode s.mem.inbuf | .explicit m => m) = m ∧
      firstInvalid m s.mem.inbuf = none ∧ findVersion s.cfg m l.toNat s.mem.inbuf.length = some v ∧
      t = { s with
        mode := BitVec.ofNat 32 m.code, level := zextByte l, count := BitVec.ofNat 32 s.mem.inbuf.length
        version := BitVec.ofNat 32 v, selValid := true, dataValid := false, finalValid := false
        mem := { s.mem with data := [], ecall := [], final := [] }, res := BitVec.ofNat 32 v } := by
  unfold selectStage at h
  split at h
  · simp at h
  · rename_i choice hc
    split at h
    · rename_i hl
      simp only at h
      split at h
      · simp at h
      · rename_i hf
        split at h
        · simp at h
        · rename_i v hv
          simp only [Effect.done.injEq] at h
          exact ⟨choice, _, v, hc, hl, rfl, hf, hv, h.symm⟩
    · simp at h

theorem selectStage_raise_cases {a l : Byte} {s : State} {c : FaultCode} {info : Word}
    (h : selectStage a l s = .raise c info) :
    (ModeChoice.ofCode? a.toNat = none ∧ c = .invalidConfiguration ∧ info = zextByte a) ∨
      ∃ choice, ModeChoice.ofCode? a.toNat = some choice ∧
        ((levelOk l.toNat = false ∧ c = .invalidConfiguration ∧ info = zextByte l) ∨
          (levelOk l.toNat = true ∧ (c = .invalidCharacter ∨ c = .capacityExceeded))) := by
  unfold selectStage at h
  split at h
  · rename_i hc
    simp at h
    exact .inl ⟨hc, h.1.symm, h.2.symm⟩
  · rename_i choice hc
    refine .inr ⟨choice, hc, ?_⟩
    split at h
    · rename_i hl
      refine .inr ⟨hl, ?_⟩
      simp only at h
      split at h
      · simp at h; exact .inl h.1.symm
      · split at h
        · simp at h; exact .inr h.1.symm
        · simp at h
    · rename_i hl
      simp at h
      exact .inl ⟨by simpa using hl, h.1.symm, h.2.symm⟩

theorem selectStage_defined (a l : Byte) (s : State) (why : Fault) : selectStage a l s ≠ .undefined why := by
  unfold selectStage
  split
  · simp
  · split
    · simp only
      split
      · simp
      · split <;> simp
    · simp

theorem dataStage_done_cases {s t : State} (h : dataStage s = .done t) :
    ∃ m p bits, s.selValid = true ∧ Mode.ofCode? s.mode.toNat = some m ∧
      s.cfg.profile? s.version.toNat s.level.toNat = some p ∧ representable m s.mem.inbuf = true ∧
      assembleData s.cfg m s.version.toNat p.totalData s.count.toNat s.mem.inbuf = some bits ∧
      t = { s.setStream bits with
        dataValid := true, finalValid := false
        mem := { s.mem with data := finalize bits, ecall := [], final := [] }, res := BitVec.ofNat 32 p.totalData } := by
  unfold dataStage at h
  split at h
  · rename_i hs
    split at h
    · rename_i m p hm hp
      split at h
      · rename_i hr
        split at h
        · simp at h
        · rename_i bits hb
          simp only [Effect.done.injEq] at h
          exact ⟨m, p, bits, hs, hm, hp, hr, hb, h.symm⟩
      · simp at h
    · simp at h
  · simp at h

theorem dataStage_raise_cases {s : State} {c : FaultCode} {info : Word} (h : dataStage s = .raise c info) :
    (s.selValid = false ∧ c = .sequenceError ∧ info = 0x51) ∨
      (s.selValid = true ∧ c = .capacityExceeded ∧ info = s.count) := by
  unfold dataStage at h
  split at h
  · rename_i hs
    split at h
    · split at h
      · split at h
        · simp at h; exact .inr ⟨hs, h.1.symm, h.2.symm⟩
        · simp at h
      · simp at h
    · simp at h
  · rename_i hs
    simp at h
    exact .inl ⟨by simpa using hs, h.1.symm, h.2.symm⟩

theorem blocksStage_done_cases {s t : State} (h : blocksStage s = .done t) :
    ∃ p, s.dataValid = true ∧ s.cfg.profile? s.version.toNat s.level.toNat = some p ∧
      p.g1Blocks * p.g1Data + p.g2Blocks * p.g2Data ≤ s.mem.data.length ∧
      t = { s with
        mem := { s.mem with
          ecall := (ecBlocks p (splitBlocks p s.mem.data)).flatten
          final := finalStream (splitBlocks p s.mem.data) (ecBlocks p (splitBlocks p s.mem.data)) }
        nblocks := BitVec.ofNat 32 p.blocks, ecpb := BitVec.ofNat 32 p.ecPerBlock, finalValid := true
        res := BitVec.ofNat 32 (p.totalData + p.blocks * p.ecPerBlock) } := by
  unfold blocksStage at h
  split at h
  · rename_i hd
    split at h
    · simp at h
    · rename_i p hp
      split at h
      · simp at h
      · rename_i hlen
        simp only [Effect.done.injEq] at h
        exact ⟨p, hd, hp, by omega, h.symm⟩
  · simp at h

theorem blocksStage_raise_cases {s : State} {c : FaultCode} {info : Word} (h : blocksStage s = .raise c info) :
    s.dataValid = false ∧ c = .sequenceError ∧ info = 0x52 := by
  unfold blocksStage at h
  split at h
  · split at h
    · simp at h
    · split at h <;> simp at h
  · rename_i hd
    simp at h
    exact ⟨by simpa using hd, h.1.symm, h.2.symm⟩

/-- A composed effect raises in its first stage, or in its second after the first completed. -/
theorem Effect.andThen_raise_cases {e : Effect} {k : State → Effect} {c : FaultCode} {info : Word}
    (h : e.andThen k = .raise c info) : e = .raise c info ∨ ∃ s, e = .done s ∧ k s = .raise c info := by
  cases e with
  | done s => exact .inr ⟨s, rfl, h⟩
  | raise c' info' => simp at h; exact .inl (by rw [h.1, h.2])
  | undefined why => simp at h

/-- The whole of ASM_ENCODE, when it completes, is its three stages (R293). -/
theorem asmEncode_done_cases {a l : Byte} {s u : State}
    (h : ((selectStage a l s).andThen dataStage).andThen blocksStage = .done u) :
    ∃ t t', selectStage a l s = .done t ∧ dataStage t = .done t' ∧ blocksStage t' = .done u := by
  obtain ⟨t', h', hb⟩ := Effect.andThen_done_cases h
  obtain ⟨t, hs, hd⟩ := Effect.andThen_done_cases h'
  exact ⟨t, t', hs, hd, hb⟩

end Sys2Proof.Machine
end

