-- ==== Sys2Proof/Laws/Exec.lean ====
section
/-! SUPPORT. exec as the gate of 60_exceptions.md R403 around the pseudocode of a command, and everything a command can do
when it answers a next state. -/

namespace Sys2Proof.Machine

/-- The pseudocode of each command (00_scope.md R15). -/
def effectOf : Instr → State → Effect
  | .nop, s => .done s
  | .reset, s => .done (applyReset s)
  | .regRead n, s => regReadEffect n s
  | .bufClear b, s => bufClearEffect b s
  | .bufPush b v, s => bufPushEffect b v s
  | .bufRead b i, s => bufReadEffect b i s
  | .bufLen b, s => bufLenEffect b s
  | .bsClear, s => .done (s.setStream [])
  | .bsWrite n value, s => bsWriteEffect n value s
  | .bsTotal, s => .done (s.setRes s.bsLen)
  | .bsFinalize, s => .done (s.setResNat (ceilBytes s.bsLen.toNat))
  | .rdInit b, s => rdInitEffect b s
  | .rdHas, s => .done (s.setRes (flagWord (decide (s.rdByte.toNat < s.rdLen.toNat))))
  | .rdBit, s => rdBitEffect s
  | .gfAdd a b, s => .done (s.setRes (zextByte (gfAdd a b)))
  | .gfMul a b, s => .done (s.setRes (zextByte (gfMul a b)))
  | .gfDiv a b, s => gfDivEffect a b s
  | .gfExp i, s => .done (s.setRes (zextByte (gfExp i.toNat)))
  | .gfLog a, s => gfLogEffect a s
  | .rsGen r, s => rsGenEffect r s
  | .rsEnc r, s => rsEncEffect r s
  | .rsSynd r, s => rsSyndEffect r s
  | .segCheck m, s => segCheckEffect m s
  | .segCount m, s => segCountEffect m s
  | .segWrite m, s => segWriteEffect m s
  | .segAuto, s => .done (s.setResNat (autoMode s.mem.inbuf).code)
  | .asmSelect a l, s => selectStage a l s
  | .asmData, s => dataStage s
  | .asmBlocks, s => blocksStage s
  | .asmEncode a l, s => ((selectStage a l s).andThen dataStage).andThen blocksStage

/-- NOP, REG_READ and RESET run in the fault state too (R403). -/
def runsInFaultState : Instr → Bool
  | .nop => true
  | .reset => true
  | .regRead _ => true
  | .bufClear _ => false
  | .bufPush _ _ => false
  | .bufRead _ _ => false
  | .bufLen _ => false
  | .bsClear => false
  | .bsWrite _ _ => false
  | .bsTotal => false
  | .bsFinalize => false
  | .rdInit _ => false
  | .rdHas => false
  | .rdBit => false
  | .gfAdd _ _ => false
  | .gfMul _ _ => false
  | .gfDiv _ _ => false
  | .gfExp _ => false
  | .gfLog _ => false
  | .rsGen _ => false
  | .rsEnc _ => false
  | .rsSynd _ => false
  | .segCheck _ => false
  | .segCount _ => false
  | .segWrite _ => false
  | .segAuto => false
  | .asmSelect _ _ => false
  | .asmData => false
  | .asmBlocks => false
  | .asmEncode _ _ => false

theorem exec_eq (i : Instr) (s : State) :
    exec i s = if runsInFaultState i then ungated s (effectOf i s) else gated s (effectOf i s) := by
  cases i <;> rfl

theorem exec_of_ok {s : State} (h : s.fault = false) (i : Instr) : exec i s = commit s (effectOf i s) := by
  rw [exec_eq]; split
  · exact ungated_of_ok h _
  · exact gated_of_ok h _

theorem exec_of_fault {s : State} (h : s.fault = true) {i : Instr} (hi : runsInFaultState i = false) :
    exec i s = .next s := by
  rw [exec_eq, hi]; exact gated_of_fault h _

/-- Everything a command can do when it answers a next state: its writes, the fault record over the state it began in, or,
while FAULT = 1, nothing. -/
theorem exec_next_cases {i : Instr} {s t : State} (h : exec i s = .next t) :
    ((s.fault = false ∨ runsInFaultState i = true) ∧ effectOf i s = .done t) ∨
      (s.fault = false ∧ ∃ c info, effectOf i s = .raise c info ∧ t = recordFault c info s) ∨
      (s.fault = true ∧ t = s) := by
  rw [exec_eq] at h
  split at h
  · rename_i hr
    rcases ungated_next_cases h with h | ⟨c, info, h, ht⟩
    · exact .inl ⟨.inr hr, h⟩
    · cases hf : s.fault
      · exact .inr (.inl ⟨rfl, c, info, h, by simpa [hf] using ht⟩)
      · exact .inr (.inr ⟨rfl, by simpa [hf] using ht⟩)
  · rcases gated_next_cases h with ⟨hf, ht⟩ | ⟨hf, h⟩ | ⟨hf, h⟩
    · exact .inr (.inr ⟨hf, ht⟩)
    · exact .inl ⟨.inl hf, h⟩
    · exact .inr (.inl ⟨hf, h⟩)

end Sys2Proof.Machine
end

