-- ==== Sys2Proof/Laws/Lengths.lean ====
section
/-! SUPPORT. How long the sequences the commands compute are: polynomials and EC codewords (43_reed_solomon.md), payloads
(45_segment.md R256), the data bitstream, its blocks and their interleaving (46_assembler.md R285-R287). -/

namespace Sys2Proof.Machine

/-! ## Reed-Solomon -/

@[simp] theorem addLeading_length (p q : List Byte) : (addLeading p q).length = max p.length q.length := by
  induction p generalizing q with
  | nil => simp [addLeading]
  | cons a p ih => cases q with
    | nil => simp [addLeading]
    | cons b q => simp [addLeading, ih, Nat.succ_max_succ]

theorem polyMultiply_length {a b : List Byte} (ha : a ≠ []) (hb : b ≠ []) :
    (polyMultiply a b).length + 1 = a.length + b.length := by
  induction a with
  | nil => exact absurd rfl ha
  | cons x p ih =>
    have hb' : 0 < b.length := List.length_pos_iff.mpr hb
    cases p with
    | nil => simp [polyMultiply]; omega
    | cons y p =>
      have := ih (by simp)
      simp [polyMultiply] at this ⊢
      omega

@[simp] theorem generatorAfter_length (j : Nat) : (generatorAfter j).length = j + 2 := by
  induction j with
  | zero => rfl
  | succ j ih =>
    have hne : generatorAfter j ≠ [] := by intro h; simp [h] at ih
    have := polyMultiply_length (b := [1, gfExp (j + 1)]) hne (by simp)
    simp [generatorAfter] at this ⊢
    omega

theorem buildGenerator_length {r : Nat} (h : 1 ≤ r) : (buildGenerator r).length = r + 1 := by
  simp [buildGenerator]; omega

theorem divideTurns_length (gRest : List Byte) (k : Nat) (m : List Byte) (h : k + gRest.length ≤ m.length) :
    (divideTurns gRest k m).length = m.length - k := by
  induction k generalizing m with
  | zero => rfl
  | succ k ih =>
    cases m with
    | nil => simp at h
    | cons c m =>
      simp only [divideTurns, List.length_cons] at h ⊢
      split
      · rw [ih m (by omega)]; omega
      · rw [ih _ (by simp; omega)]; simp; omega

@[simp] theorem generateEC_length {r : Nat} (data : List Byte) (h : 1 ≤ r) : (generateEC data r).length = r := by
  have := buildGenerator_length h
  unfold generateEC
  rw [divideTurns_length _ _ _ (by simp [this])]
  simp

@[simp] theorem syndromes_length (c : List Byte) (r : Nat) : (syndromes c r).length = r := by simp [syndromes]

/-! ## Assembler -/

@[simp] theorem padBytes_length (cfg : Config) (count k : Nat) : (padBytes cfg count k).length = 8 * count := by
  induction count generalizing k with
  | zero => rfl
  | succ n ih => simp [padBytes, ih]; omega

/-- The data bitstream fills the data codewords exactly (R285). -/
theorem assembleData_length {cfg : Config} {m : Mode} {v d n : Nat} {t : List Byte} {bits : List Bool}
    (h : assembleData cfg m v d n t = some bits) : bits.length = 8 * d := by
  unfold assembleData at h
  split at h
  · simp at h
  · simp only [Option.some.injEq] at h
    subst h
    simp only [padToCapacity, padToByte, addTerminator, List.length_append, zeroBits_length, padBytes_length]
    omega

theorem finalize_assembleData_length {cfg : Config} {m : Mode} {v d n : Nat} {t : List Byte} {bits : List Bool}
    (h : assembleData cfg m v d n t = some bits) : (finalize bits).length = d := by
  rw [finalize_length, assembleData_length h, ceilBytes_eight_mul]

@[simp] theorem takeBlocks_length (count size : Nat) (data : List Byte) : (takeBlocks count size data).length = count := by
  induction count generalizing data with
  | zero => rfl
  | succ n ih => simp [takeBlocks, ih]

@[simp] theorem splitBlocks_length (p : Profile) (data : List Byte) : (splitBlocks p data).length = p.blocks := by
  simp [splitBlocks]

@[simp] theorem ecBlocks_length (p : Profile) (blocks : List (List Byte)) : (ecBlocks p blocks).length = blocks.length := by
  simp [ecBlocks]

/-- Every EC block has E bytes (R286). -/
theorem ecBlocks_flatten_length {p : Profile} (blocks : List (List Byte)) (h : 1 ≤ p.ecPerBlock) :
    (ecBlocks p blocks).flatten.length = blocks.length * p.ecPerBlock := by
  induction blocks with
  | nil => simp [ecBlocks]
  | cons b bs ih =>
    simp only [ecBlocks, List.map_cons, List.flatten_cons, List.length_append, generateEC_length _ h, List.length_cons] at ih ⊢
    rw [ih]; ring

/-- Every EC block has E bytes, so the j-th E bytes of ECALL are the EC codewords of block j (R286, D36). -/
theorem ecBlocks_flatten_chunk {p : Profile} (h : 1 ≤ p.ecPerBlock) (blocks : List (List Byte)) (j : Nat)
    {block : List Byte} (hj : blocks[j]? = some block) :
    ((ecBlocks p blocks).flatten.drop (j * p.ecPerBlock)).take p.ecPerBlock = generateEC block p.ecPerBlock := by
  induction blocks generalizing j with
  | nil => simp at hj
  | cons b bs ih =>
    have hb := generateEC_length b h
    cases j with
    | zero =>
      simp only [List.getElem?_cons_zero, Option.some.injEq] at hj
      simp [ecBlocks, ← hj, hb]
    | succ k =>
      simp only [List.getElem?_cons_succ] at hj
      rw [← ih k hj]
      simp only [ecBlocks, List.map_cons, List.flatten_cons, List.drop_append, hb]
      rw [List.drop_of_length_le (by rw [hb, Nat.succ_mul]; omega)]
      simp [Nat.succ_mul]

/-- The split uses every byte it is given (R286). -/
theorem splitBlocks_flatten (p : Profile) (data : List Byte) (h : data.length = p.g1Blocks * p.g1Data + p.g2Blocks * p.g2Data) :
    (splitBlocks p data).flatten.length = data.length := by
  have key : ∀ (count size : Nat) (data : List Byte), count * size ≤ data.length →
      (takeBlocks count size data).flatten.length = count * size := by
    intro count size
    induction count with
    | zero => simp [takeBlocks]
    | succ n ih =>
      intro data h
      have hs : size ≤ data.length := le_trans (Nat.le_mul_of_pos_left _ (by omega)) h
      simp only [takeBlocks, List.flatten_cons, List.length_append, List.length_take]
      rw [ih _ (by rw [List.length_drop]; rw [Nat.succ_mul] at h; omega), Nat.succ_mul]
      omega
  simp only [splitBlocks, List.flatten_append, List.length_append]
  rw [key _ _ _ (by omega), key _ _ _ (by rw [List.length_drop]; omega), h]

/-! ## Interleaving (R287) -/

theorem length_le_longest {blocks : List (List Byte)} {b : List Byte} (h : b ∈ blocks) : b.length ≤ longest blocks := by
  induction blocks with
  | nil => simp at h
  | cons x xs ih =>
    simp only [longest]
    rcases List.mem_cons.mp h with rfl | h
    · omega
    · have := ih h; omega

/-- The bytes at index i, of the blocks that have one. -/
theorem filterMap_getElem_length (blocks : List (List Byte)) (i : Nat) :
    (blocks.filterMap fun b => b[i]?).length = (blocks.map fun b => if i < b.length then 1 else 0).sum := by
  induction blocks with
  | nil => rfl
  | cons b bs ih =>
    by_cases h : i < b.length
    · simp [h, ih]; omega
    · simp [h, ih]

/-- Interleaving emits as many bytes as the blocks hold. -/
theorem interleave_length (blocks : List (List Byte)) : (interleave blocks).length = blocks.flatten.length := by
  have key : ∀ L, (∀ b ∈ blocks, b.length ≤ L) →
      ((List.range L).flatMap fun i => blocks.filterMap fun b => b[i]?).length = blocks.flatten.length := by
    intro L hL
    rw [List.length_flatMap]
    simp only [filterMap_getElem_length, List.length_flatten]
    induction blocks with
    | nil => simp
    | cons b bs ih =>
      have hb : b.length ≤ L := hL b (by simp)
      have hcount : ∀ n L, n ≤ L → ((List.range L).map fun i => if i < n then 1 else 0).sum = n := by
        intro n L h
        induction L with
        | zero => simp_all
        | succ L ihL =>
          rw [List.range_succ]
          simp only [List.map_append, List.sum_append, List.map_cons, List.map_nil, List.sum_cons, List.sum_nil]
          by_cases hn : n ≤ L
          · rw [ihL hn]; simp [Nat.not_lt.mpr hn]
          · have : n = L + 1 := by omega
            subst this
            have hall : ((List.range L).map fun i => if i < L + 1 then 1 else 0) = (List.range L).map fun _ => 1 := by
              apply List.map_congr_left
              intro i hi
              simp at hi
              simp; omega
            rw [hall]; simp
      have := ih (fun b' h' => hL b' (by simp [h']))
      simp only [List.map_cons, List.sum_cons] at this ⊢
      rw [← this, List.sum_map_add, hcount _ _ hb]
  exact key _ fun b hb => length_le_longest hb

end Sys2Proof.Machine
end

