-- ==== Sys2Proof/Laws/PerInstr.lean ====
section
/-! SUPPORT. The fields of an encoded word (30_encoding.md R71, R72), one lemma per command. -/

namespace Sys2Proof

/-- The layout of R71, bit by bit. -/
theorem getLsbD_wordOf (op a b c : Byte) (imm : Word) (i : Nat) : (wordOf op a b c imm).getLsbD i =
    if i < 32 then imm.getLsbD i else if i < 40 then c.getLsbD (i - 32) else if i < 48 then b.getLsbD (i - 40)
    else if i < 56 then a.getLsbD (i - 48) else op.getLsbD (i - 56) := by
  unfold wordOf
  simp only [BitVec.getLsbD_append]
  repeat' split
  all_goals first | rfl | omega

@[simp] theorem opField_wordOf (op a b c : Byte) (imm : Word) : opField (wordOf op a b c imm) = op := by
  refine BitVec.eq_of_getLsbD_eq fun i hi => ?_
  simp only [opField, BitVec.getLsbD_extractLsb', getLsbD_wordOf]
  repeat' split
  all_goals first | omega | simp_all

@[simp] theorem aField_wordOf (op a b c : Byte) (imm : Word) : aField (wordOf op a b c imm) = a := by
  refine BitVec.eq_of_getLsbD_eq fun i hi => ?_
  simp only [aField, BitVec.getLsbD_extractLsb', getLsbD_wordOf]
  repeat' split
  all_goals first | omega | simp_all

@[simp] theorem bField_wordOf (op a b c : Byte) (imm : Word) : bField (wordOf op a b c imm) = b := by
  refine BitVec.eq_of_getLsbD_eq fun i hi => ?_
  simp only [bField, BitVec.getLsbD_extractLsb', getLsbD_wordOf]
  repeat' split
  all_goals first | omega | simp_all

@[simp] theorem cField_wordOf (op a b c : Byte) (imm : Word) : cField (wordOf op a b c imm) = c := by
  refine BitVec.eq_of_getLsbD_eq fun i hi => ?_
  simp only [cField, BitVec.getLsbD_extractLsb', getLsbD_wordOf]
  repeat' split
  all_goals first | omega | simp_all

@[simp] theorem immField_wordOf (op a b c : Byte) (imm : Word) : immField (wordOf op a b c imm) = imm := by
  refine BitVec.eq_of_getLsbD_eq fun i hi => ?_
  simp only [immField, BitVec.getLsbD_extractLsb', getLsbD_wordOf]
  repeat' split
  all_goals first | omega | simp_all

end Sys2Proof

namespace Sys2Proof.Laws.EncodedFields

/-- The OP field of the word is an assigned opcode whose format leaves every reserved field of the word 0, and C is 0. -/
def Statement (i : Instr) : Prop :=
  ∃ fmt, opFormat (opField (encode i)) = some fmt ∧ fmt.reservedClear (encode i) = true ∧ cField (encode i) = 0

theorem nop : Statement (.nop) :=
  ⟨.N, by simp [encode, encodeN, opFormat], by simp [encode, encodeN, Format.reservedClear], by simp [encode, encodeN]⟩

theorem reset : Statement (.reset) :=
  ⟨.N, by simp [encode, encodeN, opFormat], by simp [encode, encodeN, Format.reservedClear], by simp [encode, encodeN]⟩

theorem regRead (n : Byte) : Statement (.regRead n) :=
  ⟨.A, by simp [encode, encodeA, opFormat], by simp [encode, encodeA, Format.reservedClear], by simp [encode, encodeA]⟩

theorem bufClear (b : Byte) : Statement (.bufClear b) :=
  ⟨.A, by simp [encode, encodeA, opFormat], by simp [encode, encodeA, Format.reservedClear], by simp [encode, encodeA]⟩

theorem bufPush (b v : Byte) : Statement (.bufPush b v) :=
  ⟨.AB, by simp [encode, encodeAB, opFormat], by simp [encode, encodeAB, Format.reservedClear], by simp [encode, encodeAB]⟩

theorem bufRead (b : Byte) (i : Word) : Statement (.bufRead b i) :=
  ⟨.AI, by simp [encode, encodeAI, opFormat], by simp [encode, encodeAI, Format.reservedClear], by simp [encode, encodeAI]⟩

theorem bufLen (b : Byte) : Statement (.bufLen b) :=
  ⟨.A, by simp [encode, encodeA, opFormat], by simp [encode, encodeA, Format.reservedClear], by simp [encode, encodeA]⟩

theorem bsClear : Statement (.bsClear) :=
  ⟨.N, by simp [encode, encodeN, opFormat], by simp [encode, encodeN, Format.reservedClear], by simp [encode, encodeN]⟩

theorem bsWrite (n : Byte) (value : Word) : Statement (.bsWrite n value) :=
  ⟨.AI, by simp [encode, encodeAI, opFormat], by simp [encode, encodeAI, Format.reservedClear], by simp [encode, encodeAI]⟩

theorem bsTotal : Statement (.bsTotal) :=
  ⟨.N, by simp [encode, encodeN, opFormat], by simp [encode, encodeN, Format.reservedClear], by simp [encode, encodeN]⟩

theorem bsFinalize : Statement (.bsFinalize) :=
  ⟨.N, by simp [encode, encodeN, opFormat], by simp [encode, encodeN, Format.reservedClear], by simp [encode, encodeN]⟩

theorem rdInit (b : Byte) : Statement (.rdInit b) :=
  ⟨.A, by simp [encode, encodeA, opFormat], by simp [encode, encodeA, Format.reservedClear], by simp [encode, encodeA]⟩

theorem rdHas : Statement (.rdHas) :=
  ⟨.N, by simp [encode, encodeN, opFormat], by simp [encode, encodeN, Format.reservedClear], by simp [encode, encodeN]⟩

theorem rdBit : Statement (.rdBit) :=
  ⟨.N, by simp [encode, encodeN, opFormat], by simp [encode, encodeN, Format.reservedClear], by simp [encode, encodeN]⟩

theorem gfAdd (a b : Byte) : Statement (.gfAdd a b) :=
  ⟨.AB, by simp [encode, encodeAB, opFormat], by simp [encode, encodeAB, Format.reservedClear], by simp [encode, encodeAB]⟩

theorem gfMul (a b : Byte) : Statement (.gfMul a b) :=
  ⟨.AB, by simp [encode, encodeAB, opFormat], by simp [encode, encodeAB, Format.reservedClear], by simp [encode, encodeAB]⟩

theorem gfDiv (a b : Byte) : Statement (.gfDiv a b) :=
  ⟨.AB, by simp [encode, encodeAB, opFormat], by simp [encode, encodeAB, Format.reservedClear], by simp [encode, encodeAB]⟩

theorem gfExp (i : Byte) : Statement (.gfExp i) :=
  ⟨.A, by simp [encode, encodeA, opFormat], by simp [encode, encodeA, Format.reservedClear], by simp [encode, encodeA]⟩

theorem gfLog (a : Byte) : Statement (.gfLog a) :=
  ⟨.A, by simp [encode, encodeA, opFormat], by simp [encode, encodeA, Format.reservedClear], by simp [encode, encodeA]⟩

theorem rsGen (r : Byte) : Statement (.rsGen r) :=
  ⟨.A, by simp [encode, encodeA, opFormat], by simp [encode, encodeA, Format.reservedClear], by simp [encode, encodeA]⟩

theorem rsEnc (r : Byte) : Statement (.rsEnc r) :=
  ⟨.A, by simp [encode, encodeA, opFormat], by simp [encode, encodeA, Format.reservedClear], by simp [encode, encodeA]⟩

theorem rsSynd (r : Byte) : Statement (.rsSynd r) :=
  ⟨.A, by simp [encode, encodeA, opFormat], by simp [encode, encodeA, Format.reservedClear], by simp [encode, encodeA]⟩

theorem segCheck (m : Byte) : Statement (.segCheck m) :=
  ⟨.A, by simp [encode, encodeA, opFormat], by simp [encode, encodeA, Format.reservedClear], by simp [encode, encodeA]⟩

theorem segCount (m : Byte) : Statement (.segCount m) :=
  ⟨.A, by simp [encode, encodeA, opFormat], by simp [encode, encodeA, Format.reservedClear], by simp [encode, encodeA]⟩

theorem segWrite (m : Byte) : Statement (.segWrite m) :=
  ⟨.A, by simp [encode, encodeA, opFormat], by simp [encode, encodeA, Format.reservedClear], by simp [encode, encodeA]⟩

theorem segAuto : Statement (.segAuto) :=
  ⟨.N, by simp [encode, encodeN, opFormat], by simp [encode, encodeN, Format.reservedClear], by simp [encode, encodeN]⟩

theorem asmSelect (a l : Byte) : Statement (.asmSelect a l) :=
  ⟨.AB, by simp [encode, encodeAB, opFormat], by simp [encode, encodeAB, Format.reservedClear], by simp [encode, encodeAB]⟩

theorem asmData : Statement (.asmData) :=
  ⟨.N, by simp [encode, encodeN, opFormat], by simp [encode, encodeN, Format.reservedClear], by simp [encode, encodeN]⟩

theorem asmBlocks : Statement (.asmBlocks) :=
  ⟨.N, by simp [encode, encodeN, opFormat], by simp [encode, encodeN, Format.reservedClear], by simp [encode, encodeN]⟩

theorem asmEncode (a l : Byte) : Statement (.asmEncode a l) :=
  ⟨.AB, by simp [encode, encodeAB, opFormat], by simp [encode, encodeAB, Format.reservedClear], by simp [encode, encodeAB]⟩

end Sys2Proof.Laws.EncodedFields
end

