-- ==== Sys2Proof/Laws/Tables.lean ====
section
/-! SUPPORT. What a well-formed configuration gives: the bounds of 20_memory.md R53, the widths of log entry 7, the profiles
of 44_tables.md R220 with the checks of R226, and the version search over them (46_assembler.md R284). -/

namespace Sys2Proof

theorem Config.wf_cases {cfg : Config} (h : cfg.wf = true) :
    cfg.boundsOk = true ∧ cfg.widthOk = true ∧ cfg.shapeOk = true ∧ cfg.profilesOk = true ∧ cfg.cciOk = true ∧
      cfg.capacityOk = true := by
  simp only [Config.wf, Bool.and_eq_true] at h
  obtain ⟨⟨⟨⟨⟨h1, h2⟩, h3⟩, h4⟩, h5⟩, h6⟩ := h
  exact ⟨h1, h2, h3, h4, h5, h6⟩

theorem Config.wf_bounds {cfg : Config} (h : cfg.wf = true) :
    1 ≤ cfg.inMax ∧ 1 ≤ cfg.rsMaxMsg ∧ 1 ≤ cfg.rsMaxEc ∧ cfg.rsMaxEc ≤ 254 ∧ 8 * cfg.maxData ≤ cfg.bsMaxBits := by
  have := (Config.wf_cases h).1
  simp only [Config.boundsOk, Bool.and_eq_true, decide_eq_true_eq] at this
  tauto

theorem Config.wf_width {cfg : Config} (h : cfg.wf = true) :
    cfg.inMax < 2 ^ 32 ∧ cfg.rsMaxMsg < 2 ^ 32 ∧ cfg.bsMaxBits < 2 ^ 32 ∧ cfg.maxEcall < 2 ^ 32 ∧ cfg.maxFinal < 2 ^ 32 := by
  have := (Config.wf_cases h).2.1
  simp only [Config.widthOk, Bool.and_eq_true, decide_eq_true_eq] at this
  tauto

/-- Every profile of a well-formed configuration passes check 1 of R226 and fits the capacities (R53). -/
theorem Config.wf_profile {cfg : Config} (h : cfg.wf = true) {v l : Nat} {p : Profile} (hp : cfg.profile? v l = some p) :
    p.ok cfg = true ∧ p.fits cfg = true := by
  have hall := (Config.wf_cases h).2.2.2.1
  simp only [Config.profilesOk, List.all_eq_true, Bool.and_eq_true] at hall
  unfold Config.profile? at hp
  split at hp
  · simp at hp
  · split at hp
    · rename_i row hrow
      exact hall row (List.mem_of_getElem? hrow) p (List.mem_of_getElem? hp)
    · simp at hp

/-- Every (v, l) with v in 1..40 and l in 0..3 has a profile. -/
theorem Config.wf_profile_exists {cfg : Config} (h : cfg.wf = true) {v l : Nat} (hv : 1 ≤ v) (hv' : v ≤ 40) (hl : l ≤ 3) :
    ∃ p, cfg.profile? v l = some p := by
  have hs := (Config.wf_cases h).2.2.1
  simp only [Config.shapeOk, Bool.and_eq_true, decide_eq_true_eq, List.all_eq_true] at hs
  simp only [numVersions, numLevels] at hs
  have h1 : v - 1 < cfg.ecProfile.length := by omega
  have h2 : l < (cfg.ecProfile[v - 1]).length := by rw [hs.2 _ (List.getElem_mem h1)]; omega
  refine ⟨(cfg.ecProfile[v - 1])[l], ?_⟩
  unfold Config.profile?
  rw [if_neg (by omega), List.getElem?_eq_getElem h1]
  exact List.getElem?_eq_getElem h2

theorem Config.wf_capacity {cfg : Config} (h : cfg.wf = true) {v l : Nat} (m : Mode) (hv : 1 ≤ v) (hv' : v ≤ 40)
    (hl : l ≤ 3) :
    cfg.capacityOf v l m < 2 ^ cfg.cciWidth (band v) m ∧
      4 + cfg.cciWidth (band v) m + payloadBits m (cfg.capacityOf v l m) ≤ 8 * cfg.totalData v l := by
  have hc := (Config.wf_cases h).2.2.2.2.2
  simp only [Config.capacityOk, List.all_eq_true, Config.capacityFits, Bool.and_eq_true, decide_eq_true_eq] at hc
  refine hc v ?_ l ?_ m ?_
  · simp [versions, numVersions]; omega
  · simp [levels, numLevels]; omega
  · cases m <;> decide

/-- A longer text of a mode has at least as many payload bits (R256). -/
theorem payloadBits_mono (m : Mode) {n k : Nat} (h : n ≤ k) : payloadBits m n ≤ payloadBits m k := by
  cases m
  · simp only [payloadBits]; split_ifs <;> omega
  · simp only [payloadBits]; omega
  · simp only [payloadBits]; omega

namespace Machine

/-- A version the search finds is one of 1..40 and covers the count (R284). -/
theorem findVersion_some {cfg : Config} {m : Mode} {l n v : Nat} (h : findVersion cfg m l n = some v) :
    1 ≤ v ∧ v ≤ 40 ∧ n ≤ cfg.capacityOf v l m := by
  have h1 := List.mem_of_find?_eq_some h
  have h2 := List.find?_some h
  simp only [versions, numVersions, List.mem_range'_1] at h1
  exact ⟨h1.1, by omega, by simpa using h2⟩

end Machine

end Sys2Proof
end

