-- ==== Sys2Proof/Tests/Slice0.lean ====
section
/-! SUPPORT. The model's own tests. A name such as D7, H3, X1 or P3 is the vector of spec/95_test_vectors.md the expected
result comes from; R<n> is the rule whose example or encoding it is. The last section holds, for every statement with
hypotheses, a concrete case that meets them. -/

open Sys2Proof Sys2Proof.Machine Sys2Proof.Spec

namespace Sys2Proof.Tests

-- One theorem after another: elaborated at once, the many kernel evaluations below need too many threads.
set_option Elab.async false

/-! ## Helpers -/

/-- A sequence of bytes from numbers. -/
def bytes (ns : List Nat) : List Byte := ns.map (BitVec.ofNat 8)

/-- The reset state with a text in INBUF. -/
def withText (ns : List Nat) : State := { State.reset with mem := { Memory.empty with inbuf := bytes ns } }

/-- The reset state with a message in RSIN. -/
def withMessage (ns : List Nat) : State := { State.reset with mem := { Memory.empty with rsin := bytes ns } }

/-- The reset state with bits in BS. -/
def withBits (bits : List Bool) : State := State.reset.setStream bits

/-- The reset state with DomainError recorded: P5 after step 1. -/
def faultState : State := { State.reset with fault := true, errcode := 3 }

/-- Whether an outcome is a next state with a property. -/
def answers (o : Host.Outcome State Fault Refusal) (p : State → Bool) : Bool :=
  match o with
  | .next t => p t
  | .fault _ => false
  | .refused _ => false

/-- Whether an outcome is the fault record over `s`. -/
def records (o : Host.Outcome State Fault Refusal) (s : State) (code : BitVec 4) (info : Word) : Bool :=
  answers o fun t => t == faulted s code info

/-- The state after a command, `s` itself where it answers no next state. -/
def after (i : Instr) (s : State) : State :=
  match exec i s with
  | .next t => t
  | .fault _ => s
  | .refused _ => s

/-- "HELLO WORLD". -/
def hello : State := withText [0x48, 0x45, 0x4C, 0x4C, 0x4F, 0x20, 0x57, 0x4F, 0x52, 0x4C, 0x44]

/-- "HELLo". -/
def helloLower : State := withText [0x48, 0x45, 0x4C, 0x4C, 0x6F]

/-! ## Decoding: one word for every command -/

/-- R100, D1. -/
theorem test_decode_nop :
    decode 0x0000000000000000 = .command .nop ∧ encode .nop = 0x0000000000000000 := by decide

/-- R101. -/
theorem test_decode_reset :
    decode 0x0100000000000000 = .command .reset ∧ encode .reset = 0x0100000000000000 := by decide

/-- R102. -/
theorem test_decode_regRead :
    decode 0x0201000000000000 = .command (.regRead 1) ∧ encode (.regRead 1) = 0x0201000000000000 := by decide

/-- P3 step 1. -/
theorem test_decode_bufClear :
    decode 0x0301000000000000 = .command (.bufClear 1) ∧ encode (.bufClear 1) = 0x0301000000000000 := by decide

/-- R104, H3. -/
theorem test_decode_bufPush :
    decode 0x0400480000000000 = .command (.bufPush 0 0x48) ∧ encode (.bufPush 0 0x48) = 0x0400480000000000 := by decide

/-- D9. -/
theorem test_decode_bufRead :
    decode 0x05010000FFFFFFFF = .command (.bufRead 1 0xFFFFFFFF) ∧ encode (.bufRead 1 0xFFFFFFFF) = 0x05010000FFFFFFFF := by decide

/-- R106, H12. -/
theorem test_decode_bufLen :
    decode 0x0608000000000000 = .command (.bufLen 8) ∧ encode (.bufLen 8) = 0x0608000000000000 := by decide

/-- R130. -/
theorem test_decode_bsClear :
    decode 0x1000000000000000 = .command .bsClear ∧ encode .bsClear = 0x1000000000000000 := by decide

/-- R84. -/
theorem test_decode_bsWrite :
    decode 0x110500000000001F = .command (.bsWrite 5 0x1F) ∧ encode (.bsWrite 5 0x1F) = 0x110500000000001F := by decide

/-- R133. -/
theorem test_decode_bsTotal :
    decode 0x1200000000000000 = .command .bsTotal ∧ encode .bsTotal = 0x1200000000000000 := by decide

/-- R134. -/
theorem test_decode_bsFinalize :
    decode 0x1300000000000000 = .command .bsFinalize ∧ encode .bsFinalize = 0x1300000000000000 := by decide

/-- D7. -/
theorem test_decode_rdInit :
    decode 0x1420000000000000 = .command (.rdInit 0x20) ∧ encode (.rdInit 0x20) = 0x1420000000000000 := by decide

/-- R137. -/
theorem test_decode_rdHas :
    decode 0x1500000000000000 = .command .rdHas ∧ encode .rdHas = 0x1500000000000000 := by decide

/-- R136. -/
theorem test_decode_rdBit :
    decode 0x1600000000000000 = .command .rdBit ∧ encode .rdBit = 0x1600000000000000 := by decide

/-- P5 step 2. -/
theorem test_decode_gfAdd :
    decode 0x2001020000000000 = .command (.gfAdd 1 2) ∧ encode (.gfAdd 1 2) = 0x2001020000000000 := by decide

/-- R84. -/
theorem test_decode_gfMul :
    decode 0x2153CA0000000000 = .command (.gfMul 0x53 0xCA) ∧ encode (.gfMul 0x53 0xCA) = 0x2153CA0000000000 := by decide

/-- P1 step 2. -/
theorem test_decode_gfDiv :
    decode 0x228FCA0000000000 = .command (.gfDiv 0x8F 0xCA) ∧ encode (.gfDiv 0x8F 0xCA) = 0x228FCA0000000000 := by decide

/-- P1 step 4. -/
theorem test_decode_gfExp :
    decode 0x2318000000000000 = .command (.gfExp 0x18) ∧ encode (.gfExp 0x18) = 0x2318000000000000 := by decide

/-- P1 step 3. -/
theorem test_decode_gfLog :
    decode 0x248F000000000000 = .command (.gfLog 0x8F) ∧ encode (.gfLog 0x8F) = 0x248F000000000000 := by decide

/-- P3 step 33. -/
theorem test_decode_rsGen :
    decode 0x300F000000000000 = .command (.rsGen 15) ∧ encode (.rsGen 15) = 0x300F000000000000 := by decide

/-- P3 step 13. -/
theorem test_decode_rsEnc :
    decode 0x310F000000000000 = .command (.rsEnc 15) ∧ encode (.rsEnc 15) = 0x310F000000000000 := by decide

/-- P3 step 31. -/
theorem test_decode_rsSynd :
    decode 0x320F000000000000 = .command (.rsSynd 15) ∧ encode (.rsSynd 15) = 0x320F000000000000 := by decide

/-- R72, R75: OP 0x40, A 1. -/
theorem test_decode_segCheck :
    decode 0x4001000000000000 = .command (.segCheck 1) ∧ encode (.segCheck 1) = 0x4001000000000000 := by decide

/-- R72, R75: OP 0x41, A 1. -/
theorem test_decode_segCount :
    decode 0x4101000000000000 = .command (.segCount 1) ∧ encode (.segCount 1) = 0x4101000000000000 := by decide

/-- R72, R75: OP 0x42, A 0xFF. -/
theorem test_decode_segWrite :
    decode 0x42FF000000000000 = .command (.segWrite 0xFF) ∧ encode (.segWrite 0xFF) = 0x42FF000000000000 := by decide

/-- P4 step 13. -/
theorem test_decode_segAuto :
    decode 0x4300000000000000 = .command .segAuto ∧ encode .segAuto = 0x4300000000000000 := by decide

/-- R290. -/
theorem test_decode_asmSelect :
    decode 0x5001010000000000 = .command (.asmSelect 1 1) ∧ encode (.asmSelect 1 1) = 0x5001010000000000 := by decide

/-- R291. -/
theorem test_decode_asmData :
    decode 0x5100000000000000 = .command .asmData ∧ encode .asmData = 0x5100000000000000 := by decide

/-- R292. -/
theorem test_decode_asmBlocks :
    decode 0x5200000000000000 = .command .asmBlocks ∧ encode .asmBlocks = 0x5200000000000000 := by decide

/-- F8. -/
theorem test_decode_asmEncode :
    decode 0x53FF010000000000 = .command (.asmEncode 0xFF 1) ∧ encode (.asmEncode 0xFF 1) = 0x53FF010000000000 := by decide

/-- D2, D3, D4, D5, D6, and a format-AI word with B = 1. -/
theorem test_decode_illegal :
    decode 0x0000000000000001 = .illegal .reservedField ∧ decode 0x0700000000000000 = .illegal .unknownOpcode ∧
    decode 0xFF00000000000000 = .illegal .unknownOpcode ∧ decode 0x2053CA0100000000 = .illegal .reservedField ∧
    decode 0x2353010000000000 = .illegal .reservedField ∧ decode 0x0501010000000000 = .illegal .reservedField := by
  decide

/-- The table's own numbering of a row's bits. -/
theorem test_decodeTableWord : decodeTableWord 64 0x2153CA0000000000 = some (.gfMul 0x53 0xCA) ∧
    decodeTableWord 64 0x0700000000000000 = none := by decide

/-! ## WellFormed: an ill-formed term for each check (R74) -/

theorem test_illFormed_registerId : (Instr.regRead 15).wellFormed Config.standard = false := by decide

theorem test_illFormed_writableBufferId : (Instr.bufClear 2).wellFormed Config.standard = false := by decide

theorem test_illFormed_writableBufferId_push : (Instr.bufPush 8 0).wellFormed Config.standard = false := by decide

theorem test_illFormed_bufferId : (Instr.bufRead 9 0).wellFormed Config.standard = false := by decide

theorem test_illFormed_bufferId_len : (Instr.bufLen 9).wellFormed Config.standard = false := by decide

theorem test_illFormed_bufferId_reader : (Instr.rdInit 0x20).wellFormed Config.standard = false := by decide

theorem test_illFormed_bitCount : (Instr.bsWrite 33 1).wellFormed Config.standard = false := by decide

theorem test_illFormed_degree_zero : (Instr.rsEnc 0).wellFormed Config.standard = false := by decide

theorem test_illFormed_degree_large : (Instr.rsGen 31).wellFormed Config.standard = false := by decide

theorem test_illFormed_degree_synd : (Instr.rsSynd 31).wellFormed Config.standard = false := by decide

theorem test_illFormed_modeCode : (Instr.segCheck 3).wellFormed Config.standard = false := by decide

theorem test_illFormed_modeCode_auto : (Instr.segWrite 0xFF).wellFormed Config.standard = false := by decide

theorem test_illFormed_modeCode_count : (Instr.segCount 4).wellFormed Config.standard = false := by decide

theorem test_illFormed_modeCodeOrAuto : (Instr.asmSelect 3 1).wellFormed Config.standard = false := by decide

theorem test_illFormed_modeCodeOrAuto_encode : (Instr.asmEncode 0xFE 1).wellFormed Config.standard = false := by decide

theorem test_illFormed_levelCode : (Instr.asmSelect 0 4).wellFormed Config.standard = false := by decide

theorem test_illFormed_levelCode_encode : (Instr.asmEncode 0xFF 4).wellFormed Config.standard = false := by decide

/-- The largest legal operands (R74) with RS_MAX_EC = 30. -/
theorem test_wellFormed_boundary :
    ([.regRead 14, .bufClear 1, .bufPush 1 0xFF, .bufRead 8 0xFFFFFFFF, .bsWrite 32 0, .rsGen 1, .rsGen 30, .segCheck 2,
      .asmSelect 0xFF 3, .asmEncode 2 0] : List Instr).all (Instr.wellFormed Config.standard) = true := by decide

/-! ## Configurations: one that fails each check of R226 and R53 -/

theorem test_config_standard : Config.standard.wf = true := by decide +kernel

theorem test_config_bounds : ({ Config.standard with rsMaxEc := 255 } : Config).wf = false := by decide +kernel

theorem test_config_stream : ({ Config.standard with bsMaxBits := 23647 } : Config).wf = false := by decide +kernel

theorem test_config_width : ({ Config.standard with inMax := 2 ^ 32 } : Config).wf = false := by decide +kernel

theorem test_config_shape : ({ Config.standard with ecProfile := [] } : Config).wf = false := by decide +kernel

theorem test_config_profiles : ({ Config.standard with rsMaxEc := 29 } : Config).wf = false := by decide +kernel

theorem test_config_maxData : ({ Config.standard with maxData := 2955 } : Config).wf = false := by decide +kernel

theorem test_config_cci : ({ Config.standard with cciBand2 := ⟨14, 13, 33⟩ } : Config).wf = false := by decide +kernel

theorem test_config_capacity :
    ({ Config.standard with capacity := [[⟨some 42, none, none⟩]] } : Config).wf = false := by decide +kernel

/-- R227, R228: 41 digits, 25 alphanumeric and 17 byte characters at version 1, level 0. -/
theorem test_capacity : Config.standard.capacityOf 1 0 .numeric = 41 ∧ Config.standard.capacityOf 1 0 .alnum = 25 ∧
    Config.standard.capacityOf 1 0 .byte = 17 := by decide +kernel

/-! ## The machine from reset -/

/-- The first step after reset runs the word delivered (M7). -/
theorem test_step_first : answers (step (State.reset.withFetchWord 64 0x2153CA0000000000))
    (fun t => t == { State.reset with res := 143 }) = true := by decide +kernel

/-- D4. -/
theorem test_step_illegal : records (step (State.reset.withFetchWord 64 0xFF00000000000000)) State.reset 6 0xFF = true := by
  decide +kernel

/-- R450: the reset input leaves the fault state. -/
theorem test_step_resetInput : answers (step { faultState with inbox := [.resetInput] }) (fun t => t == State.reset) = true := by
  decide +kernel

/-- A malformed configuration is refused (D48). -/
theorem test_step_refused :
    step { State.reset with cfg := { Config.standard with ecProfile := [] } } = .refused .malformedConfiguration := rfl

/-! ## Host access (L2.2) -/

/-- R100. -/
theorem test_nop : exec .nop faultState = .next faultState := rfl

/-- H13. -/
theorem test_reset : exec .reset { faultState with mem := hello.mem } = .next State.reset := rfl

/-- P5 step 3. -/
theorem test_regRead_status : exec (.regRead 1) faultState = .next { faultState with res := 0x301 } := rfl

/-- H2, H14. -/
theorem test_regRead_unknown : records (exec (.regRead 15) State.reset) State.reset 6 0x02 = true ∧
    exec (.regRead 0x20) faultState = .next faultState := ⟨by decide +kernel, rfl⟩

/-- R103: BUF_CLEAR 0 clears SEL_VALID, BUF_CLEAR 1 does not. -/
theorem test_bufClear : answers (exec (.bufClear 0) { hello with selValid := true }) (fun t => t == State.reset) = true ∧
    answers (exec (.bufClear 1) { hello with selValid := true }) (fun t => t.selValid && t.mem == hello.mem) = true := by
  decide +kernel

/-- H5. -/
theorem test_bufClear_view : records (exec (.bufClear 5) State.reset) State.reset 6 0x03 = true := by decide +kernel

/-- H3. -/
theorem test_bufPush : answers (exec (.bufPush 0 0x48) State.reset) (fun t => t.mem.inbuf == [0x48]) = true := by
  decide +kernel

/-- H9, H4. -/
theorem test_bufPush_faults :
    records (exec (.bufPush 1 0) (withMessage (List.replicate 255 7))) (withMessage (List.replicate 255 7)) 7 1 = true ∧
    records (exec (.bufPush 2 1) State.reset) State.reset 6 0x04 = true := by decide +kernel

/-- H10. -/
theorem test_bufRead_view : answers (exec (.bufRead 5 0) (withBits [true, false, true, true, false]))
    (fun t => t.res == 0xB0) = true := by decide +kernel

/-- H6, H7. -/
theorem test_bufRead_faults : records (exec (.bufRead 0 0) State.reset) State.reset 8 0 = true ∧
    records (exec (.bufRead 9 0) State.reset) State.reset 6 0x05 = true := by decide +kernel

/-- H11. -/
theorem test_bufLen : answers (exec (.bufLen 5) (withBits [true, false, true, true, false])) (fun t => t.res == 1) = true ∧
    answers (exec (.bufLen 0) hello) (fun t => t.res == 11) = true := by decide +kernel

/-! ## Bitstream (L2.3) -/

/-- R130. -/
theorem test_bsClear : exec .bsClear (withBits [true]) = .next State.reset := rfl

/-- B2, B3. -/
theorem test_bsWrite : answers (exec (.bsWrite 5 0x13) (withBits [true, false, true]))
      (fun t => t == withBits [true, false, true, true, false, false, true, true]) = true ∧
    answers (exec (.bsWrite 4 0xFFFFFFF5) State.reset) (fun t => t == withBits [false, true, false, true]) = true := by
  decide +kernel

/-- B6, and B4 on a full bitstream. -/
theorem test_bsWrite_corners : records (exec (.bsWrite 33 1) State.reset) State.reset 6 0x11 = true ∧
    answers (exec (.bsWrite 0 0xFFFFFFFF) { State.reset with cfg := { Config.standard with bsMaxBits := 0 } })
      (fun t => t.bs == []) = true := by decide +kernel

/-- R133. -/
theorem test_bsTotal : answers (exec .bsTotal (withBits (List.replicate 9 true))) (fun t => t.res == 9) = true := by
  decide +kernel

/-- B9, B8. -/
theorem test_bsFinalize : answers (exec .bsFinalize (withBits (List.replicate 9 true)))
      (fun t => t.res == 2 && t.bufBytes .bsbytes == bytes [0xFF, 0x80]) = true ∧
    answers (exec .bsFinalize State.reset) (fun t => t.res == 0 && t.bufBytes .bsbytes == []) = true := by
  decide +kernel

/-- R135, B14. -/
theorem test_rdInit : answers (exec (.rdInit 0) hello) (fun t => t == { hello with rdLen := 11 }) = true ∧
    records (exec (.rdInit 9) State.reset) State.reset 6 0x14 = true := by decide +kernel

/-- B11, and a 1-byte source. -/
theorem test_rdHas : answers (exec .rdHas State.reset) (fun t => t.res == 0) = true ∧
    answers (exec .rdHas (after (.rdInit 0) (withText [0xA0]))) (fun t => t.res == 1) = true := by decide +kernel

/-- B13: the 3rd and the 8th pop of 0xA1. -/
theorem test_rdBit :
    answers (exec .rdBit { withText [0xA1] with rdLen := 1, rdBit := 2 }) (fun t => t.res == 1 && t.rdBit == 3) = true ∧
    answers (exec .rdBit { withText [0xA1] with rdLen := 1, rdBit := 7 })
      (fun t => t.res == 1 && t.rdBit == 0 && t.rdByte == 1) = true := by decide +kernel

/-- B12, and a source that shrank (R463). -/
theorem test_rdBit_end : records (exec .rdBit State.reset) State.reset 8 0 = true ∧
    records (exec .rdBit { State.reset with rdSrc := 1, rdLen := 3 }) { State.reset with rdSrc := 1, rdLen := 3 } 8 1 = true := by
  decide +kernel

/-! ## Field (L2.4) -/

/-- A1, A3. -/
theorem test_gfAdd : answers (exec (.gfAdd 0x53 0xCA) State.reset) (fun t => t.res == 153) = true ∧
    answers (exec (.gfAdd 0x7E 0x7E) State.reset) (fun t => t.res == 0) = true := by decide +kernel

/-- M2, M9. -/
theorem test_gfMul : answers (exec (.gfMul 0 7) State.reset) (fun t => t.res == 0) = true ∧
    answers (exec (.gfMul 255 255) State.reset) (fun t => t.res == 226) = true := by decide +kernel

/-- V5, V4. -/
theorem test_gfDiv : answers (exec (.gfDiv 0x53 0xCA) State.reset) (fun t => t.res == 109) = true ∧
    answers (exec (.gfDiv 1 255) State.reset) (fun t => t.res == 253) = true := by decide +kernel

/-- V10. -/
theorem test_gfDiv_zero : records (exec (.gfDiv 0 0) State.reset) State.reset 3 0 = true := by decide +kernel

/-- The EXP row: i = 255 and i = 100. -/
theorem test_gfExp : answers (exec (.gfExp 255) State.reset) (fun t => t.res == 1) = true ∧
    answers (exec (.gfExp 100) State.reset) (fun t => t.res == 17) = true := by decide +kernel

/-- The LOG row: a = 0xCA, and a = 0. -/
theorem test_gfLog : answers (exec (.gfLog 0xCA) State.reset) (fun t => t.res == 73) = true ∧
    records (exec (.gfLog 0) State.reset) State.reset 3 0 = true := by decide +kernel

/-! ## Reed-Solomon (L2.5) -/

/-- R200: the generator of degree 15 of P3 begins [1, 29]. -/
theorem test_rsGen : answers (exec (.rsGen 15) State.reset)
    (fun t => t.res == 16 && t.genR == 15 && t.mem.gen.length == 16 && t.mem.gen.take 2 == bytes [1, 29]) = true := by
  decide +kernel

/-- E8: the source's own vector. -/
theorem test_rsEnc : answers (exec (.rsEnc 15) (withMessage [32, 91, 11, 241, 209, 114, 220, 38, 161, 160, 236]))
    (fun t => t.res == 15 &&
      t.mem.rsout == bytes [220, 117, 193, 108, 198, 216, 11, 4, 232, 173, 99, 128, 138, 2, 14]) = true := by
  decide +kernel

/-- E10. -/
theorem test_rsEnc_zero : records (exec (.rsEnc 0) State.reset) State.reset 6 0x31 = true := by decide +kernel

/-- Y1, Y2. -/
theorem test_rsSynd : answers (exec (.rsSynd 4) (withMessage [1, 2, 3, 139, 243, 142, 246]))
      (fun t => t.res == 1 && t.mem.synd == bytes [0, 0, 0, 0]) = true ∧
    answers (exec (.rsSynd 4) (withMessage [1, 2, 3])) (fun t => t.res == 0 && t.mem.synd == bytes [0, 3, 27, 83]) = true := by
  decide +kernel

/-- Y11. -/
theorem test_rsSynd_large : records (exec (.rsSynd 31) State.reset) State.reset 6 0x32 = true := by decide +kernel

/-! ## Segments (L2.6) -/

/-- K1, K4. -/
theorem test_segCheck : answers (exec (.segCheck 1) hello) (fun t => t.res == 1) = true ∧
    answers (exec (.segCheck 0) hello) (fun t => t.res == 0) = true ∧
    records (exec (.segCheck 3) State.reset) State.reset 5 3 = true := by decide +kernel

/-- K5, K6. -/
theorem test_segCount : answers (exec (.segCount 1) hello) (fun t => t.res == 11) = true ∧
    records (exec (.segCount 4) State.reset) State.reset 5 4 = true := by decide +kernel

/-- W8, W10. -/
theorem test_segWrite :
    answers (exec (.segWrite 1) (withText [0x3A, 0x3A]))
      (fun t => t.res == 11 && t.bs == [true, true, true, true, true, true, false, true, false, false, false]) = true ∧
    answers (exec (.segWrite 2) (withText [0x48, 0x69]))
      (fun t => t.res == 16 && t.bufBytes .bsbytes == bytes [0x48, 0x69]) = true := by decide +kernel

/-- W13, W14. -/
theorem test_segWrite_invalid :
    records (exec (.segWrite 0) (withText [0x31, 0x32, 0x41, 0x34])) (withText [0x31, 0x32, 0x41, 0x34]) 1 2 = true ∧
    records (exec (.segWrite 1) helloLower) helloLower 1 4 = true := by decide +kernel

/-- K7. -/
theorem test_segAuto : answers (exec .segAuto (withText [0x31, 0x32, 0x33])) (fun t => t.res == 0) = true ∧
    answers (exec .segAuto (withText [0x31, 0x32, 0x41])) (fun t => t.res == 1) = true ∧
    answers (exec .segAuto helloLower) (fun t => t.res == 2) = true := by decide +kernel

/-! ## Assembler (L2.7) -/

/-- The example of R290. -/
theorem test_asmSelect : answers (exec (.asmSelect 1 1) hello)
    (fun t => t.mode == 1 && t.level == 1 && t.count == 11 && t.version == 1 && t.res == 1 && t.status == 0x2) = true := by
  decide +kernel

/-- F2, F5. -/
theorem test_asmSelect_faults : records (exec (.asmSelect 1 1) helloLower) helloLower 1 4 = true ∧
    records (exec (.asmSelect 0 4) State.reset) State.reset 5 4 = true := by decide +kernel

/-- The example of R291. -/
theorem test_asmData : answers (exec .asmData (after (.asmSelect 1 1) hello))
    (fun t => t.res == 16 && t.status == 0x6 && t.bsLen == 128 &&
      t.mem.data == bytes [32, 91, 11, 120, 209, 114, 220, 77, 67, 64, 236, 17, 236, 17, 236, 17]) = true := by
  decide +kernel

/-- F6. -/
theorem test_asmData_sequence : records (exec .asmData State.reset) State.reset 9 0x51 = true := by decide +kernel

/-- The example of R292. -/
theorem test_asmBlocks : answers (exec .asmBlocks (after .asmData (after (.asmSelect 1 1) hello)))
    (fun t => t.res == 26 && t.status == 0xE && t.nblocks == 1 && t.ecpb == 10 &&
      t.mem.ecall == bytes [196, 35, 39, 119, 235, 215, 231, 226, 93, 23] && t.mem.final == t.mem.data ++ t.mem.ecall) = true := by
  decide +kernel

/-- F7. -/
theorem test_asmBlocks_sequence : records (exec .asmBlocks State.reset) State.reset 9 0x52 = true := by decide +kernel

/-- X7. -/
theorem test_asmEncode : answers (exec (.asmEncode 2 3) (withText [0x48, 0x69]))
    (fun t => t.res == 26 && t.status == 0xE && t.mem.data == bytes [64, 36, 134, 144, 236, 17, 236, 17, 236] &&
      t.mem.ecall == bytes [250, 255, 60, 175, 138, 205, 169, 12, 87, 238, 222, 39, 87, 58, 213, 84, 70]) = true := by
  decide +kernel

/-- X9: two groups of blocks; FINAL[0..3], FINAL[60], FINAL[61] (R295). -/
theorem test_asmEncode_blocks :
    answers (exec (.asmEncode 0 2) (withText ((List.replicate 13 (List.range' 0x30 10)).flatten)))
      (fun t => t.res == 134 && t.version == 5 && t.nblocks == 4 && t.ecpb == 18 && t.mem.final.length == 134 &&
        t.mem.final.take 4 == bytes [18, 197, 110, 223] && (t.mem.final.drop 60).take 2 == bytes [168, 236]) = true := by
  decide +kernel

/-! ## Witnesses: for every statement with hypotheses, a case that meets them

Each theorem `witness_<Name>` is about the statement `Obligations.<Name>`, one conjunct for each clause with hypotheses, at
the edge of its range where it has one. Hypotheses `s.fault = false` are met by every state built here but `faultState`. -/

/-- An answer with a property, as the hypothesis of a statement writes it. -/
theorem exists_of_answers {o : Host.Outcome State Fault Refusal} {p : State → Bool} (h : answers o p = true) :
    ∃ t, o = .next t ∧ p t = true := by
  cases o with
  | next t => exact ⟨t, rfl, h⟩
  | fault r => simp [answers] at h
  | refused r => simp [answers] at h

/-- The reset state with the host's inputs. -/
def withInputs (inputs : List HostInput) : State := { State.reset with inbox := inputs }

/-- "HELLO WORLD" selected, its data built, and encoded, at level 1. -/
def helloSelected : State := after (.asmSelect 1 1) hello

def helloData : State := after .asmData helloSelected

def helloEncoded : State := after .asmBlocks helloData

theorem hello_bytes : hello.mem.inbuf = bytes [0x48, 0x45, 0x4C, 0x4C, 0x4F, 0x20, 0x57, 0x4F, 0x52, 0x4C, 0x44] := rfl

/-- A capacity one bit above what BS holds, and RSIN and INBUF of capacity 1. -/
def smallConfig : Config := { Config.standard with bsMaxBits := 1, inMax := 1, rsMaxMsg := 1 }

def smallState : State := { State.reset with cfg := smallConfig }

/-- Every row of R75 is there once: the OP bytes of the written words are those of the table's rows, in their order. -/
theorem witness_WrittenWordsDecode : writtenWords.length = 30 ∧
    (writtenWords.map fun row => row.1.extractLsb' 56 8) = opcodeRows.map fun row => row.1.extractLsb' 56 8 := by decide

theorem witness_EncodeOfDecode : decode 0x05010000FFFFFFFF = .command (.bufRead 1 0xFFFFFFFF) := by decide

theorem witness_IllegalWordsAreThoseOutsideTheTable :
    (withInputs [.word 0xFF00000000000000]).cfg.wf = true ∧
    (withInputs [.word 0xFF00000000000000]).inbox = [.word 0xFF00000000000000] ∧
    decode 0xFF00000000000000 = .illegal .unknownOpcode := ⟨test_config_standard, rfl, by decide⟩

theorem witness_StepRunsTheDecodedCommand :
    (withInputs [.word 0x2353000000000000]).cfg.wf = true ∧
    (withInputs [.word 0x2353000000000000]).inbox = [.word 0x2353000000000000] ∧
    decode 0x2353000000000000 = .command (.gfExp 0x53) := ⟨test_config_standard, rfl, by decide⟩

theorem witness_BlockHoldsItsStateBetweenWords :
    hello.cfg.wf = true ∧ hello.inbox = [] ∧ decode 0x4300000000000000 = .command .segAuto :=
  ⟨test_config_standard, rfl, by decide⟩

theorem witness_MalformedConfigurationsAreRefused : step State.reset ≠ .refused .malformedConfiguration := by
  obtain ⟨t, h, -⟩ := exists_of_answers (o := step State.reset) (p := fun _ => true) (by decide +kernel)
  rw [h]; intro h'; cases h'

theorem witness_ConfigurationsThatPassAreRun :
    PassesChecks Config.standard ∧ Config.standard.ecProfile.length = 40 ∧
    (∀ row ∈ Config.standard.ecProfile, row.length = 4) ∧ Config.standard.inMax < 2 ^ 32 ∧
    Config.standard.rsMaxMsg < 2 ^ 32 ∧ Config.standard.bsMaxBits < 2 ^ 32 ∧ Config.standard.maxEcall < 2 ^ 32 ∧
    Config.standard.maxFinal < 2 ^ 32 := by
  refine ⟨⟨fun v l hv hv' hl => ?_, fun b hb m => ?_, by decide⟩, by decide, fun row hrow => ?_, by decide⟩
  · obtain ⟨p, hp⟩ := Config.wf_profile_exists test_config_standard hv hv' hl
    have hw := Config.wf_profile test_config_standard hp
    have ht : Config.standard.totalData v l = p.totalData := by simp [Config.totalData, hp]
    refine ⟨p, hp, ?_⟩
    simp only [Profile.ok, Profile.fits, Bool.and_eq_true, Bool.or_eq_true, decide_eq_true_eq] at hw
    refine ⟨by tauto, by tauto, by tauto, by tauto, by tauto, by tauto, by tauto, by tauto, by tauto, by tauto, fun m => ?_⟩
    exact ht ▸ Config.wf_capacity test_config_standard m hv hv' hl
  · interval_cases b <;> cases m <;> decide
  · have h := (Config.wf_cases test_config_standard).2.2.1
    simp only [Config.shapeOk, Bool.and_eq_true, List.all_eq_true, decide_eq_true_eq] at h
    exact h.2 row hrow

theorem witness_FaultingCommandsChangeOnlyTheRecord :
    hello.fault = false ∧ ∃ t, exec (.gfDiv 7 0) hello = .next t ∧ t.fault = true := ⟨rfl, _, rfl, rfl⟩

/-- In the fault state an illegal word, a discarded command, NOP, RESET, REG_READ 15 and REG_READ 14; without a fault an
illegal word and a command. -/
theorem witness_FaultStateGate :
    State.reset.cfg.wf = true ∧ faultState.fault = true ∧ State.reset.fault = false ∧
    decode 0x0000000000000001 = .illegal .reservedField ∧
    (decode 0x2103030000000000 = .command (.gfMul 3 3) ∧ Instr.gfMul 3 3 ≠ .nop ∧ Instr.gfMul 3 3 ≠ .reset ∧
      ∀ n, Instr.gfMul 3 3 ≠ .regRead n) ∧
    decode 0x0000000000000000 = .command .nop ∧ decode 0x0100000000000000 = .command .reset ∧
    (decode 0x020F000000000000 = .command (.regRead 15) ∧ 15 ≤ (15 : Byte).toNat) ∧
    (decode 0x020E000000000000 = .command (.regRead 14) ∧ (registerFile faultState)[(14 : Byte).toNat]? = some 0) := by
  refine ⟨test_config_standard, rfl, rfl, by decide, ⟨by decide, by decide, by decide, by intro n h; cases h⟩, by decide,
    by decide, ⟨by decide, by decide⟩, by decide, rfl⟩

theorem witness_OnlyResetWritesARecordedFault :
    ((State.reset.fault = false ↔ State.reset.errcode = 0) ∧ ∃ t, exec (.gfDiv 0 0) State.reset = .next t) ∧
    (faultState.fault = true ∧ Instr.regRead 1 ≠ .reset ∧ ∃ t, exec (.regRead 1) faultState = .next t) :=
  ⟨⟨by decide, _, rfl⟩, rfl, by decide, _, rfl⟩

/-- Every operand check just outside its range, and legal operands with a fault of another kind. -/
theorem witness_IllegalOperandsRaiseTheirFault :
    State.reset.fault = false ∧
    ([.regRead 15, .bufClear 2, .bufPush 2 0, .bufRead 9 0, .bufLen 9, .bsWrite 33 0, .rdInit 9, .rsGen 0, .rsGen 31, .rsEnc 0,
      .rsEnc 31, .rsSynd 0, .rsSynd 31, .segCheck 3, .segCount 3, .segWrite 3, .asmSelect 3 0, .asmSelect 0xFE 0,
      .asmSelect 0 4, .asmEncode 3 0, .asmEncode 0xFF 4] : List Instr).all
        (fun i => !(i.wellFormed State.reset.cfg)) = true ∧
    ((Instr.bufRead 8 0).wellFormed State.reset.cfg = true ∧
      ∃ t, exec (.bufRead 8 0) State.reset = .next t ∧ t.fault = true) := ⟨rfl, by decide, by decide, _, rfl, rfl⟩

theorem witness_ResetClearsAllState :
    (withInputs [.resetInput]).cfg.wf = true ∧ (withInputs [.resetInput]).inbox = [.resetInput] := ⟨test_config_standard, rfl⟩

theorem witness_ResetMeetsTheInvariant : Config.standard.wf = true := test_config_standard

/-- A state that meets the invariant with every stage valid: "HELLO WORLD", encoded. -/
theorem helloEncoded_inv : helloEncoded.Inv where
  config := by decide +kernel
  faults := by decide +kernel
  stream := by decide +kernel
  memory := by decide +kernel
  reader := ⟨⟨.inbuf, by decide +kernel, by decide +kernel⟩, by decide +kernel, by decide +kernel, by decide +kernel⟩
  generator := by decide +kernel
  registers := by decide +kernel
  selection := fun _ => ⟨.alnum, by decide +kernel, by decide +kernel, by decide +kernel, by decide +kernel⟩
  data := ⟨fun _ => ⟨.alnum, ⟨16, 10, 1, 16, 0, 0⟩, hello.mem.inbuf, helloEncoded.bs, by decide +kernel, by decide +kernel,
    by decide +kernel, by decide +kernel, by decide +kernel, by decide +kernel⟩, by decide +kernel⟩
  final := ⟨fun _ => ⟨by decide +kernel, ⟨16, 10, 1, 16, 0, 0⟩, by decide +kernel, by decide +kernel, by decide +kernel,
    by decide +kernel, by decide +kernel⟩, by decide +kernel⟩

theorem witness_StepKeepsTheInvariant : helloEncoded.Inv ∧ ∃ t, step helloEncoded = .next t := by
  obtain ⟨t, h, -⟩ := exists_of_answers (o := step helloEncoded) (p := fun _ => true) (by decide +kernel)
  exact ⟨helloEncoded_inv, t, h⟩

theorem witness_NoRunStops : helloEncoded.Inv ∧ ∃ t, Runs helloEncoded t := by
  obtain ⟨t, h, -⟩ := exists_of_answers (o := step helloEncoded) (p := fun _ => true) (by decide +kernel)
  exact ⟨helloEncoded_inv, t, .tail (.refl _) h⟩

theorem witness_ConfigurationIsNeverWritten :
    ∃ t, step (withInputs [.word 0x4300000000000000, .resetInput]) = .next t := by
  obtain ⟨t, h, -⟩ := exists_of_answers (o := step (withInputs [.word 0x4300000000000000, .resetInput]))
    (p := fun _ => true) (by decide +kernel)
  exact ⟨t, h⟩

/-- GF_ADD meets every "not this command" clause, NOP the one about RES, and REG_READ and GF_DIV the last two. -/
theorem witness_RegistersAreWrittenByTheirCommands :
    ((∃ t, exec (.gfAdd 1 2) hello = .next t) ∧ Instr.gfAdd 1 2 ≠ .reset ∧ (∀ a l, Instr.gfAdd 1 2 ≠ .asmSelect a l) ∧
      (∀ a l, Instr.gfAdd 1 2 ≠ .asmEncode a l) ∧ (∀ r, Instr.gfAdd 1 2 ≠ .rsGen r) ∧ writesStream (.gfAdd 1 2) = false ∧
      (∀ b, Instr.gfAdd 1 2 ≠ .rdInit b) ∧ Instr.gfAdd 1 2 ≠ .rdBit ∧ Instr.gfAdd 1 2 ≠ .asmBlocks) ∧
    ((∃ t, exec .nop hello = .next t) ∧ namesRes .nop = false) ∧
    (∃ t, exec (.regRead 1) faultState = .next t ∧ t.fault = true ∧ t.res ≠ faultState.res) ∧
    (∃ t, exec (.regRead 15) State.reset = .next t ∧ t.errinfo ≠ State.reset.errinfo) := by
  refine ⟨⟨⟨_, rfl⟩, by decide, ?_, ?_, ?_, rfl, ?_, by decide, by decide⟩, ⟨⟨_, rfl⟩, rfl⟩, ⟨_, rfl, rfl, by decide⟩,
    _, rfl, by decide⟩ <;> intros <;> intro h <;> cases h

theorem witness_BuffersAreWrittenByTheirCommands :
    ((∃ t, exec (.bufPush 1 7) hello = .next t) ∧ Instr.bufPush 1 7 ≠ .reset ∧ BufId.inbuf ∉ buffersWritten (.bufPush 1 7)) ∧
    ((∃ t, exec (.asmSelect 1 1) hello = .next t) ∧ BufId.bsbytes ∉ buffersWritten (.asmSelect 1 1)) := by
  obtain ⟨t, h, -⟩ := exists_of_answers (o := exec (.asmSelect 1 1) hello) (p := fun _ => true) (by decide +kernel)
  exact ⟨⟨⟨_, rfl⟩, by decide, by decide⟩, ⟨t, h⟩, by decide⟩

/-- A command for each set and each clear of each flag. -/
theorem witness_StatusLayoutAndFlagWriters :
    (∃ t, exec .reset faultState = .next t ∧ t.fault = false) ∧
    (answers (exec (.asmSelect 1 1) hello) (fun t => t.selValid) = true ∧ hello.selValid = false) ∧
    (answers (exec (.bufPush 0 0x21) helloEncoded) (fun t => !t.selValid) = true ∧ helloEncoded.selValid = true) ∧
    (answers (exec .asmData helloSelected) (fun t => t.dataValid) = true ∧ helloSelected.dataValid = false) ∧
    (answers (exec (.asmSelect 1 1) helloEncoded) (fun t => !t.dataValid) = true ∧ helloEncoded.dataValid = true) ∧
    (answers (exec .asmBlocks helloData) (fun t => t.finalValid) = true ∧ helloData.finalValid = false) ∧
    (answers (exec .asmData helloEncoded) (fun t => !t.finalValid) = true ∧ helloEncoded.finalValid = true) ∧
    (faultState.errcode ≠ 0 ∧ ∃ t, exec .reset faultState = .next t ∧ t.errcode = 0) :=
  ⟨⟨_, rfl, rfl⟩, by decide +kernel, by decide +kernel, by decide +kernel, by decide +kernel, by decide +kernel,
    by decide +kernel, by decide, _, rfl, rfl⟩

theorem witness_ReadingCommandsChangeOnlyRes :
    writesOnlyRes (.bufRead 0 0) = true ∧ (∃ t, exec (.bufRead 0 0) hello = .next t) ∧
    ∃ t, exec (.bufRead 0 11) hello = .next t := ⟨rfl, ⟨_, rfl⟩, _, rfl⟩

theorem witness_RegReadGivesTheRegister :
    (registerFile hello)[(14 : Byte).toNat]? = some 0 ∧ (14 : Byte).toNat ≤ 14 ∧
    (15 ≤ (15 : Byte).toNat ∧ hello.fault = false) ∧ (15 ≤ (15 : Byte).toNat ∧ faultState.fault = true) :=
  ⟨rfl, by decide, ⟨by decide, rfl⟩, by decide, rfl⟩

/-- An INBUF and an RSIN one byte below their capacity and at it, and the first id that is not writable. -/
theorem witness_HostBuffersClearAndAppend :
    smallState.fault = false ∧ 2 ≤ (2 : Byte).toNat ∧ smallState.mem.inbuf.length ≠ smallState.cfg.inMax ∧
    { smallState with mem := { Memory.empty with inbuf := [7] } }.mem.inbuf.length = smallState.cfg.inMax ∧
    smallState.mem.rsin.length ≠ smallState.cfg.rsMaxMsg ∧
    { smallState with mem := { Memory.empty with rsin := [7] } }.mem.rsin.length = smallState.cfg.rsMaxMsg := by decide +kernel

/-- The last byte of a buffer, the index after it, the last buffer and the first id that is none. -/
theorem witness_BufReadGivesTheByte :
    hello.fault = false ∧
    ((bufferFile hello)[(0 : Byte).toNat]? = some hello.mem.inbuf ∧ hello.mem.inbuf[(10 : Word).toNat]? = some 0x44) ∧
    hello.mem.inbuf.length ≤ (11 : Word).toNat ∧
    ((bufferFile hello)[(8 : Byte).toNat]? = some [] ∧ ([] : List Byte).length ≤ (0 : Word).toNat) ∧
    9 ≤ (9 : Byte).toNat := by decide +kernel

theorem witness_BufLenGivesTheLength :
    hello.fault = false ∧ ((0 : Byte) ≠ 5 ∧ (bufferFile hello)[(0 : Byte).toNat]? = some hello.mem.inbuf) ∧
    ((8 : Byte) ≠ 5 ∧ (bufferFile hello)[(8 : Byte).toNat]? = some []) ∧ 9 ≤ (9 : Byte).toNat := by decide +kernel

theorem witness_StreamClearTotalFinalize : (withBits [true]).fault = false := rfl

/-- A write that fills the bitstream, one that passes its end by one bit, and a count of 33. -/
theorem witness_BsWriteAppendsTheLowBits :
    smallState.fault = false ∧ ((1 : Byte).toNat ≤ 32 ∧ smallState.bs.length + (1 : Byte).toNat ≤ smallState.cfg.bsMaxBits) ∧
    ((2 : Byte).toNat ≤ 32 ∧ smallState.cfg.bsMaxBits < smallState.bs.length + (2 : Byte).toNat) ∧
    ((32 : Byte).toNat ≤ 32 ∧ State.reset.bs.length + (32 : Byte).toNat ≤ State.reset.cfg.bsMaxBits) ∧
    33 ≤ (33 : Byte).toNat := by decide +kernel

theorem witness_ReaderStartsAndReports :
    hello.fault = false ∧ ((0 : Byte) ≠ 5 ∧ (bufferFile hello)[(0 : Byte).toNat]? = some hello.mem.inbuf) ∧
    ((8 : Byte) ≠ 5 ∧ (bufferFile hello)[(8 : Byte).toNat]? = some []) ∧ 9 ≤ (9 : Byte).toNat := by decide +kernel

/-- A source of one byte, its last bit; the cursor at RD_LEN; and a source that is shorter than RD_LEN. -/
theorem witness_RdBitPopsTheNextBit :
    ((bufferFile { withText [0xA1] with rdLen := 1, rdBit := 7 })[(0 : Word).toNat]? = some [0xA1] ∧
      (0 : Word).toNat < (1 : Word).toNat ∧ [(0xA1 : Byte)][(0 : Word).toNat]? = some 0xA1 ∧ (7 : Word).toNat ≤ 7) ∧
    ((bufferFile State.reset)[State.reset.rdSrc.toNat]? = some [] ∧ State.reset.rdLen.toNat ≤ State.reset.rdByte.toNat) ∧
    ((bufferFile { State.reset with rdSrc := 1, rdLen := 3 })[(1 : Word).toNat]? = some [] ∧
      ([] : List Byte).length ≤ (0 : Word).toNat) := by decide +kernel

theorem witness_FinalizePacksMsbFirst : (1 : Nat) < ([true, false, true, true, true, true, true, true, true].length + 7) / 8 ∧
    (7 : Nat) ≤ 7 := by decide

/-- The widths of P2, 32 and 0. -/
def someWrites : List (Byte × Word) := [(3, 5), (5, 0x13), (8, 0xA5), (16, 0x1234), (32, 1), (0, 0)]

theorem witness_BitstreamRoundTrip :
    State.reset.fault = false ∧ State.reset.cfg.bsMaxBits < 2 ^ 32 ∧ (∀ x ∈ someWrites, x.1.toNat ≤ 32) ∧
    (someWrites.map fun x => x.1.toNat).sum ≤ State.reset.cfg.bsMaxBits :=
  ⟨rfl, by decide, fun x hx =>
    of_decide_eq_true (List.all_eq_true.mp (show someWrites.all (fun x => decide (x.1.toNat ≤ 32)) = true by decide) x hx),
    by decide⟩

theorem witness_FieldTablesFollowTheirRecurrence :
    (253 : Nat) < 254 ∧ expTable 254 = expTable 254 ∧ (255 : Byte) ≠ 0 ∧ (254 : Nat) ≤ 254 := by decide

theorem witness_FieldLaws : (1 : Byte) ≠ 0 := by decide

theorem witness_GfAddAndGfMulGiveTheirElement : State.reset.fault = false := rfl

theorem witness_GfDivGivesTheQuotient : State.reset.fault = false ∧ (255 : Byte) ≠ 0 := by decide

theorem witness_GfExpAndGfLogGiveTheirValue : State.reset.fault = false ∧ (1 : Byte) ≠ 0 := by decide

theorem witness_PolyMultiplyIsTheConvolution :
    bytes [1, 1] ≠ [] ∧ bytes [1, 2] ≠ [] ∧ 2 < (bytes [1, 1]).length + (bytes [1, 2]).length - 1 := by decide

theorem witness_GeneratorHasItsRoots : 1 ≤ 30 ∧ 29 < 30 := by decide

theorem witness_CodewordsHaveZeroSyndromes : 1 ≤ 1 := by decide

theorem witness_CodewordsAreTheRemainder :
    1 ≤ 1 ∧ bytes [1, 2, 3] ≠ [] ∧ (bytes [1, 2, 3]).length = (bytes [4, 5, 6]).length := by decide

/-- Degrees 1, RS_MAX_EC = 30, 0 and 31. -/
theorem witness_RsGenBuildsTheGenerator :
    State.reset.fault = false ∧ (1 ≤ (1 : Byte).toNat ∧ (1 : Byte).toNat ≤ State.reset.cfg.rsMaxEc) ∧
    (1 ≤ (30 : Byte).toNat ∧ (30 : Byte).toNat ≤ State.reset.cfg.rsMaxEc) ∧ (0 : Byte).toNat = 0 ∧
    State.reset.cfg.rsMaxEc < (31 : Byte).toNat := by decide +kernel

theorem witness_RsEncAndRsSyndFillTheirBuffer :
    (withMessage [1, 2, 3]).fault = false ∧
    (1 ≤ (1 : Byte).toNat ∧ (30 : Byte).toNat ≤ (withMessage [1, 2, 3]).cfg.rsMaxEc) ∧ (0 : Byte).toNat = 0 ∧
    (withMessage [1, 2, 3]).cfg.rsMaxEc < (31 : Byte).toNat := by decide +kernel

/-- One supplied entry, 7 alphanumeric characters at version 1, level 0; and none for the other modes. -/
def suppliedConfig : Config := { Config.standard with capacity := [[⟨none, some 7, none⟩]] }

/-- R221, R227: the search reads the supplied entry, 7, and not maxChars, 25: 8 characters need version 2. -/
theorem test_supplied_capacity :
    suppliedConfig.capacityOf 1 0 .alnum = 7 ∧ suppliedConfig.capacityOf 1 0 .byte = 17 ∧
    findVersion suppliedConfig .alnum 0 7 = some 1 ∧ findVersion suppliedConfig .alnum 0 8 = some 2 := by decide +kernel

/-- Version 1, level 0, numeric: 41 characters fit, and 42 do not; one capacity is supplied, and none is. -/
theorem witness_MaxCharsIsTheGreatestCount :
    4 + 10 ≤ 8 * 19 ∧ 41 < 2 ^ 10 ∧ 4 + 10 + payloadBits .numeric 41 ≤ 8 * 19 ∧
    ¬4 + 10 + payloadBits .numeric 42 ≤ 8 * 19 ∧
    (1 ≤ 1 ∧ suppliedConfig.capacity[1 - 1]? = some [⟨none, some 7, none⟩] ∧
      [CapacityRow.mk none (some 7) none][0]? = some ⟨none, some 7, none⟩) ∧
    suppliedConfig.suppliedCapacity? 1 0 .alnum = some 7 ∧
    (suppliedConfig.capacity[2 - 1]? = none ∧ [CapacityRow.mk none (some 7) none][1]? = none) ∧
    (1 ≤ 40 ∧ ∃ row, Config.standard.ecProfile[40 - 1]? = some row ∧ row[3]? = some ⟨1276, 30, 20, 15, 61, 16⟩) ∧
    Config.standard.profile? 40 3 = some ⟨1276, 30, 20, 15, 61, 16⟩ ∧
    Config.standard.suppliedCapacity? 40 3 .numeric = none := by
  exact ⟨by decide, by decide, by decide, by decide, by decide, by decide, by decide, ⟨by decide, _, rfl, rfl⟩,
    by decide +kernel, by decide⟩

/-- Q2 and Q3: counts 20 and 21 at level 1. -/
theorem witness_VersionSearchIsMinimalAndMonotonic :
    20 ≤ 21 ∧ findVersion Config.standard .alnum 1 21 = some 2 ∧ findVersion Config.standard .alnum 1 20 = some 1 ∧
    findVersion Config.standard .numeric 0 7090 = none := by decide +kernel

theorem witness_PayloadsAreTheirGroups : ∀ c ∈ hello.mem.inbuf, alphabet.contains c.toNat = true := by decide +kernel

theorem witness_SegmentTestsAnswer : hello.fault = false ∧ (2 : Byte).toNat ≤ 2 ∧ 3 ≤ (3 : Byte).toNat := by decide +kernel

/-- A payload that fits, one that does not, and a text the mode cannot represent. -/
theorem witness_SegWriteAppendsThePayload :
    (hello.fault = false ∧ Mode.ofCode? (1 : Byte).toNat = some .alnum ∧ representable .alnum hello.mem.inbuf = true ∧
      hello.bs.length + (payload .alnum hello.mem.inbuf).length ≤ hello.cfg.bsMaxBits) ∧
    smallConfig.bsMaxBits < hello.bs.length + (payload .alnum hello.mem.inbuf).length ∧ 3 ≤ (3 : Byte).toNat ∧
    firstInvalid .alnum helloLower.mem.inbuf = some 4 := by decide +kernel

/-- The first and last version of each band (R222); a text that fits its version, and one that does not. -/
theorem witness_DataStreamHasItsParts :
    ([1, 9, 10, 26, 27, 40].map band = [0, 0, 1, 1, 2, 2] ∧ 1 ≤ 1 ∧ 1 ≤ 9 ∧ 10 ≤ 10 ∧ 10 ≤ 26 ∧ 27 ≤ 27 ∧ 27 ≤ 40) ∧
    (assembleData Config.standard .alnum 1 16 11 hello.mem.inbuf).isSome = true ∧
    assembleData Config.standard .alnum 1 9 11 hello.mem.inbuf = none := by decide +kernel

theorem witness_BlocksSplitAndInterleave :
    (bytes (List.range 62)).length = 2 * 15 + 2 * 16 ∧ (∃ block ∈ [[], bytes [1, 2], bytes [3]], block ≠ []) ∧
    ∀ block ∈ ([[], []] : List (List Byte)), block = [] := by decide

theorem witness_AsmSelectChoosesTheVersion :
    hello.fault = false ∧ requestedMode 0xFF hello.mem.inbuf = some .alnum ∧ (3 : Byte).toNat ≤ 3 ∧
    representable .alnum hello.mem.inbuf = true ∧
    findVersion hello.cfg .alnum (3 : Byte).toNat hello.mem.inbuf.length = some 2 := by decide +kernel

/-- A bad mode code, a bad level, a text the mode cannot represent, and a text that is too long for every version. -/
theorem witness_SelectionChecksInOrder :
    requestedMode 3 hello.mem.inbuf = none ∧ requestedMode 0xFE hello.mem.inbuf = none ∧
    (requestedMode 1 hello.mem.inbuf = some .alnum ∧ 4 ≤ (4 : Byte).toNat) ∧
    (requestedMode 1 helloLower.mem.inbuf = some .alnum ∧ firstInvalid .alnum helloLower.mem.inbuf = some 4) ∧
    (requestedMode 2 (List.replicate 2954 0x61) = some .byte ∧ firstInvalid .byte (List.replicate 2954 0x61) = none ∧
      findVersion Config.standard .byte (0 : Byte).toNat (List.replicate 2954 (0x61 : Byte)).length = none) := by
  decide +kernel

/-- No selection; a selection whose stream fits; and one whose count indicator and payload do not fit its version. -/
theorem witness_AsmDataBuildsTheStream :
    (hello.fault = false ∧ hello.selValid = false) ∧
    (helloSelected.fault = false ∧ helloSelected.selValid = true ∧ Mode.ofCode? helloSelected.mode.toNat = some .alnum ∧
      helloSelected.cfg.profile? helloSelected.version.toNat helloSelected.level.toNat = some ⟨16, 10, 1, 16, 0, 0⟩ ∧
      representable .alnum helloSelected.mem.inbuf = true ∧
      (assembleData helloSelected.cfg .alnum helloSelected.version.toNat 16 helloSelected.count.toNat
        helloSelected.mem.inbuf).isSome = true) ∧
    ({ helloSelected with level := 3 }.cfg.profile? helloSelected.version.toNat 3 = some ⟨9, 17, 1, 9, 0, 0⟩ ∧
      assembleData helloSelected.cfg .alnum helloSelected.version.toNat 9 helloSelected.count.toNat
        helloSelected.mem.inbuf = none) := by decide +kernel

theorem witness_AsmBlocksInterleaves :
    (helloSelected.fault = false ∧ helloSelected.dataValid = false) ∧
    (helloData.fault = false ∧ helloData.dataValid = true ∧
      helloData.cfg.profile? helloData.version.toNat helloData.level.toNat = some ⟨16, 10, 1, 16, 0, 0⟩ ∧
      1 * 16 + 0 * 0 ≤ helloData.mem.data.length) := by decide +kernel

/-- A selection that faults, one whose data faults (a version whose capacity is said to be too large), and one that
encodes. -/
theorem witness_AsmEncodeIsTheThreeStages :
    answers (exec (.asmSelect 1 1) helloLower) (fun t => t.fault) = true ∧
    answers (exec (.asmSelect 1 1) { hello with cfg := { Config.standard with ecProfile := [[], [⟨1, 1, 1, 1, 0, 0⟩, ⟨1, 1, 1, 1, 0, 0⟩]], capacity := [[], [⟨none, none, none⟩, ⟨none, some 11, none⟩]] } })
      (fun t => !t.fault && answers (exec .asmData t) (fun u => u.fault)) = true ∧
    answers (exec (.asmSelect 1 1) hello) (fun t => !t.fault && answers (exec .asmData t) (fun u => !u.fault)) = true := by
  decide +kernel

theorem witness_CoveredTextsEncodeSuccessfully :
    hello.fault = false ∧ hello.cfg.wf = true ∧ hello.mem.inbuf.length ≤ hello.cfg.inMax ∧
    requestedMode 0xFF hello.mem.inbuf = some .alnum ∧ (1 : Byte).toNat ≤ 3 ∧ representable .alnum hello.mem.inbuf = true ∧
    findVersion hello.cfg .alnum (1 : Byte).toNat hello.mem.inbuf.length = some 1 := by decide +kernel

theorem witness_EncodedStreamsHaveTheirShape :
    helloEncoded.Inv ∧ helloEncoded.fault = false ∧
    (∃ t, exec .asmBlocks helloEncoded = .next t ∧ (!t.fault) = true) ∧
    (∃ t, exec (.asmEncode 0xFF 3) helloEncoded = .next t ∧ (!t.fault) = true) ∧
    (splitBlocks ⟨16, 10, 1, 16, 0, 0⟩ helloEncoded.mem.data)[0]? = some helloEncoded.mem.data ∧
    ∃ t, exec .asmData helloEncoded = .next t ∧ (!t.fault && answers (exec .asmBlocks t) fun u => !u.fault) = true :=
  ⟨helloEncoded_inv, by decide +kernel, exists_of_answers (p := fun t => !t.fault) (by decide +kernel),
    exists_of_answers (p := fun t => !t.fault) (by decide +kernel), by decide +kernel,
    exists_of_answers (p := fun t => !t.fault && answers (exec .asmBlocks t) fun u => !u.fault) (by decide +kernel)⟩

end Sys2Proof.Tests
end

section
/-! PROOFS (10_state.md). What a completed command writes, said once: `Writes s i t` has one constructor per kind of write,
with the checks that let it pass. The statements about registers, flags, configuration and invariant are case analyses of
it. -/

open Sys2Proof.Spec

namespace Sys2Proof.Machine

/-! ## The checks of the three assembler stages -/

/-- ASM_SELECT finds version v for the text of INBUF in mode m at level l (R290). -/
structure Selects (s : State) (m : Mode) (l : Byte) (v : Nat) : Prop where
  level   : l.toNat ≤ 3
  text    : firstInvalid m s.mem.inbuf = none
  version : findVersion s.cfg m l.toNat s.mem.inbuf.length = some v

/-- ASM_DATA builds `bits` from the selection, whose mode is m and profile p (R291). -/
structure Assembles (s : State) (m : Mode) (p : Profile) (bits : List Bool) : Prop where
  valid   : s.selValid = true
  mode    : Mode.ofCode? s.mode.toNat = some m
  profile : s.cfg.profile? s.version.toNat s.level.toNat = some p
  text    : representable m s.mem.inbuf = true
  stream  : assembleData s.cfg m s.version.toNat p.totalData s.count.toNat s.mem.inbuf = some bits

/-- ASM_BLOCKS finds the data stream and its profile p (R292). -/
structure Blocks (s : State) (p : Profile) : Prop where
  valid   : s.dataValid = true
  profile : s.cfg.profile? s.version.toNat s.level.toNat = some p

theorem selectStage_done_selected {a l : Byte} {s t : State} (h : selectStage a l s = .done t) :
    ∃ m v, Selects s m l v ∧ t = selected s m l v := by
  obtain ⟨_, m, v, _, hl, _, hf, hv, rfl⟩ := selectStage_done_cases h
  exact ⟨m, v, ⟨by simpa [levelOk] using hl, hf, hv⟩, rfl⟩

theorem dataStage_done_assembled {s t : State} (h : dataStage s = .done t) :
    ∃ m p bits, Assembles s m p bits ∧ t = assembled s p bits := by
  obtain ⟨m, p, bits, hs, hm, hp, hr, hb, rfl⟩ := dataStage_done_cases h
  exact ⟨m, p, bits, ⟨hs, hm, hp, hr, hb⟩, rfl⟩

theorem blocksStage_done_blocked {s t : State} (h : blocksStage s = .done t) : ∃ p, Blocks s p ∧ t = blocked s p := by
  obtain ⟨p, hd, hp, _, rfl⟩ := blocksStage_done_cases h
  exact ⟨p, ⟨hd, hp⟩, rfl⟩

/-! ## Every completed command -/

/-- What command i has written to state s when it completes (R15, R20, R50). The commands that write RES alone share one
constructor. -/
inductive Writes (s : State) : Instr → State → Prop where
  | nop : Writes s .nop s
  | reset : Writes s .reset (applyReset s)
  | read {i : Instr} (v : Word) (hi : writesOnlyRes i = true) : Writes s i (s.setRes v)
  | bufClear {b : Byte} {buf : BufId} (hb : BufId.ofWritableCode? b.toNat = some buf) :
      Writes s (.bufClear b) ((s.setBuf buf []).inputChanged buf)
  | bufPush {b : Byte} (v : Byte) {buf : BufId} (hb : BufId.ofWritableCode? b.toNat = some buf)
      (hroom : (s.mem.get buf).length ≠ bufCapacity s.cfg buf) :
      Writes s (.bufPush b v) ((s.setBuf buf (s.mem.get buf ++ [v])).inputChanged buf)
  | bsClear : Writes s .bsClear (s.setStream [])
  | bsWrite (n : Byte) (value : Word) {bits : List Bool} (hroom : bits.length ≤ s.cfg.bsMaxBits) :
      Writes s (.bsWrite n value) (s.setStream bits)
  | segWrite (m : Byte) (n : Nat) {bits : List Bool} (hroom : bits.length ≤ s.cfg.bsMaxBits) :
      Writes s (.segWrite m) ((s.setStream bits).setResNat n)
  | rdInit {b : Byte} {src : BufId} (hb : BufId.ofCode? b.toNat = some src) :
      Writes s (.rdInit b)
        { s with rdSrc := zextByte b, rdByte := 0, rdBit := 0, rdLen := BitVec.ofNat 32 (s.bufLen src) }
  | rdBit (v : Word) (hbyte : s.rdByte.toNat < s.rdLen.toNat) (hbit : s.rdBit.toNat ≤ 7) :
      Writes s .rdBit (s.setRes v).advanceReader
  | rsGen {r : Byte} (hr : degreeOk s.cfg r.toNat = true) :
      Writes s (.rsGen r) ({ s.setBuf .gen (buildGenerator r.toNat) with genR := zextByte r }.setResNat (r.toNat + 1))
  | rsEnc {r : Byte} (v : Word) (hr : degreeOk s.cfg r.toNat = true) :
      Writes s (.rsEnc r) ((s.setBuf .rsout (generateEC s.mem.rsin r.toNat)).setRes v)
  | rsSynd {r : Byte} (v : Word) (hr : degreeOk s.cfg r.toNat = true) :
      Writes s (.rsSynd r) ((s.setBuf .synd (syndromes s.mem.rsin r.toNat)).setRes v)
  | asmSelect (a : Byte) {l : Byte} {m : Mode} {v : Nat} (hs : Selects s m l v) :
      Writes s (.asmSelect a l) (selected s m l v)
  | asmData {m : Mode} {p : Profile} {bits : List Bool} (hd : Assembles s m p bits) :
      Writes s .asmData (assembled s p bits)
  | asmBlocks {p : Profile} (hb : Blocks s p) : Writes s .asmBlocks (blocked s p)
  | asmEncode (a : Byte) {l : Byte} {m m' : Mode} {v : Nat} {p q : Profile} {bits : List Bool} (hs : Selects s m l v)
      (hd : Assembles (selected s m l v) m' p bits) (hb : Blocks (assembled (selected s m l v) p bits) q) :
      Writes s (.asmEncode a l) (blocked (assembled (selected s m l v) p bits) q)

/-- A reading command that completes writes RES and nothing else. -/
theorem effectOf_done_of_writesOnlyRes {i : Instr} {s t : State} (hi : writesOnlyRes i = true)
    (h : effectOf i s = .done t) : ∃ v, t = s.setRes v := by
  cases i with
  | regRead n => obtain ⟨v, _, rfl⟩ := regReadEffect_done_cases h; exact ⟨v, rfl⟩
  | bufRead b j => obtain ⟨_, _, _, _, rfl⟩ := bufReadEffect_done_cases h; exact ⟨_, rfl⟩
  | bufLen b => obtain ⟨_, _, rfl⟩ := bufLenEffect_done_cases h; exact ⟨_, rfl⟩
  | gfDiv a b => obtain ⟨_, _, rfl⟩ := gfDivEffect_done_cases h; exact ⟨_, rfl⟩
  | gfLog a => obtain ⟨_, _, rfl⟩ := gfLogEffect_done_cases h; exact ⟨_, rfl⟩
  | segCheck m => obtain ⟨_, _, rfl⟩ := segCheckEffect_done_cases h; exact ⟨_, rfl⟩
  | segCount m => obtain ⟨_, _, rfl⟩ := segCountEffect_done_cases h; exact ⟨_, rfl⟩
  | bsTotal => exact ⟨_, (Effect.done.inj h).symm⟩
  | bsFinalize => exact ⟨_, (Effect.done.inj h).symm⟩
  | rdHas => exact ⟨_, (Effect.done.inj h).symm⟩
  | gfAdd a b => exact ⟨_, (Effect.done.inj h).symm⟩
  | gfMul a b => exact ⟨_, (Effect.done.inj h).symm⟩
  | gfExp e => exact ⟨_, (Effect.done.inj h).symm⟩
  | segAuto => exact ⟨_, (Effect.done.inj h).symm⟩
  | nop | reset | bufClear | bufPush | bsClear | bsWrite | rdInit | rdBit | rsGen | rsEnc | rsSynd | segWrite
  | asmSelect | asmData | asmBlocks | asmEncode => simp [writesOnlyRes] at hi

/-- A completed command has written what `Writes` says of it. -/
theorem writes_of_effectOf_done {i : Instr} {s t : State} (h : effectOf i s = .done t) : Writes s i t := by
  by_cases hi : writesOnlyRes i = true
  · obtain ⟨v, rfl⟩ := effectOf_done_of_writesOnlyRes hi h
    exact .read v hi
  cases i with
  | nop => obtain rfl := Effect.done.inj h; exact .nop
  | reset => obtain rfl := Effect.done.inj h; exact .reset
  | bsClear => obtain rfl := Effect.done.inj h; exact .bsClear
  | bufClear b => obtain ⟨_, hb, rfl⟩ := bufClearEffect_done_cases h; exact .bufClear hb
  | bufPush b v => obtain ⟨_, hb, hroom, rfl⟩ := bufPushEffect_done_cases h; exact .bufPush v hb hroom
  | bsWrite n value =>
    obtain ⟨_, hroom, rfl⟩ := bsWriteEffect_done_cases h
    exact .bsWrite n value (by rwa [List.length_append])
  | segWrite m =>
    obtain ⟨_, _, _, hroom, rfl⟩ := segWriteEffect_done_cases h
    exact .segWrite m _ (by rwa [List.length_append])
  | rdInit b => obtain ⟨_, hb, rfl⟩ := rdInitEffect_done_cases h; exact .rdInit hb
  | rdBit => obtain ⟨_, _, _, hbyte, _, hbit, rfl⟩ := rdBitEffect_done_cases h; exact .rdBit _ hbyte hbit
  | rsGen r => obtain ⟨hr, rfl⟩ := rsGenEffect_done_cases h; exact .rsGen hr
  | rsEnc r => obtain ⟨hr, rfl⟩ := rsEncEffect_done_cases h; exact .rsEnc _ hr
  | rsSynd r => obtain ⟨hr, _, rfl⟩ := rsSyndEffect_done_cases h; exact .rsSynd _ hr
  | asmSelect a l => obtain ⟨_, _, hs, rfl⟩ := selectStage_done_selected h; exact .asmSelect a hs
  | asmData => obtain ⟨_, _, _, hd, rfl⟩ := dataStage_done_assembled h; exact .asmData hd
  | asmBlocks => obtain ⟨_, hb, rfl⟩ := blocksStage_done_blocked h; exact .asmBlocks hb
  | asmEncode a l =>
    obtain ⟨_, _, h1, h2, h3⟩ := asmEncode_done_cases h
    obtain ⟨_, _, hs, rfl⟩ := selectStage_done_selected h1
    obtain ⟨_, _, _, hd, rfl⟩ := dataStage_done_assembled h2
    obtain ⟨_, hb, rfl⟩ := blocksStage_done_blocked h3
    exact .asmEncode a hs hd hb
  | regRead | bufRead | bufLen | bsTotal | bsFinalize | rdHas | gfAdd | gfMul | gfDiv | gfExp | gfLog | segCheck
  | segCount | segAuto => exact absurd rfl hi

/-- TranscodingFailure (code 4) is raised by no command (R400, D25). -/
theorem effectOf_raise_ne_transcodingFailure {i : Instr} {s : State} {c : FaultCode} {info : Word}
    (h : effectOf i s = .raise c info) : c ≠ .transcodingFailure := by
  have select {a l : Byte} (h : selectStage a l s = .raise c info) : c ≠ .transcodingFailure := by
    rcases selectStage_raise_cases h with ⟨_, rfl, _⟩ | ⟨_, _, ⟨_, rfl, _⟩ | ⟨_, rfl | rfl⟩⟩ <;> decide
  have data {s : State} (h : dataStage s = .raise c info) : c ≠ .transcodingFailure := by
    rcases dataStage_raise_cases h with ⟨_, rfl, _⟩ | ⟨_, rfl, _⟩ <;> decide
  have blocks {s : State} (h : blocksStage s = .raise c info) : c ≠ .transcodingFailure := by
    obtain ⟨_, rfl, _⟩ := blocksStage_raise_cases h; decide
  cases i with
  | regRead n => obtain ⟨_, rfl, _⟩ := regReadEffect_raise_cases h; decide
  | bufClear b => obtain ⟨_, rfl, _⟩ := bufClearEffect_raise_cases h; decide
  | bufPush b v => rcases bufPushEffect_raise_cases h with ⟨_, rfl, _⟩ | ⟨_, _, _, rfl, _⟩ <;> decide
  | bufRead b j => rcases bufReadEffect_raise_cases h with ⟨_, rfl, _⟩ | ⟨_, _, _, rfl, _⟩ <;> decide
  | bufLen b => obtain ⟨_, rfl, _⟩ := bufLenEffect_raise_cases h; decide
  | bsWrite n value => rcases bsWriteEffect_raise_cases h with ⟨_, rfl, _⟩ | ⟨_, rfl, _⟩ <;> decide
  | rdInit b => obtain ⟨_, rfl, _⟩ := rdInitEffect_raise_cases h; decide
  | rdBit => obtain ⟨_, _, _, rfl, _⟩ := rdBitEffect_raise_cases h; decide
  | gfDiv a b => obtain ⟨_, rfl, _⟩ := gfDivEffect_raise_cases h; decide
  | gfLog a => obtain ⟨_, rfl, _⟩ := gfLogEffect_raise_cases h; decide
  | rsGen r => obtain ⟨_, rfl, _⟩ := rsGenEffect_raise_cases h; decide
  | rsEnc r => obtain ⟨_, rfl, _⟩ := rsEncEffect_raise_cases h; decide
  | rsSynd r => obtain ⟨_, rfl, _⟩ := rsSyndEffect_raise_cases h; decide
  | segCheck m => obtain ⟨_, rfl, _⟩ := segCheckEffect_raise_cases h; decide
  | segCount m => obtain ⟨_, rfl, _⟩ := segCountEffect_raise_cases h; decide
  | segWrite m =>
    rcases segWriteEffect_raise_cases h with ⟨_, rfl, _⟩ | ⟨_, _, ⟨_, _, rfl, _⟩ | ⟨_, rfl, _⟩⟩ <;> decide
  | asmSelect a l => exact select h
  | asmData => exact data h
  | asmBlocks => exact blocks h
  | asmEncode a l =>
    rcases Effect.andThen_raise_cases h with h | ⟨_, _, h⟩
    · rcases Effect.andThen_raise_cases h with h | ⟨_, _, h⟩
      · exact select h
      · exact data h
    · exact blocks h
  | nop | reset | bsClear | bsTotal | bsFinalize | rdHas | gfAdd | gfMul | gfExp | segAuto => simp [effectOf] at h

/-! ## Every command that answers a next state -/

/-- A command that answers a next state has written, or recorded a fault over the state it began in, or, while FAULT = 1,
was discarded (R402, R403). -/
theorem exec_next_writes {i : Instr} {s t : State} (h : exec i s = .next t) :
    ((s.fault = false ∨ runsInFaultState i = true) ∧ Writes s i t) ∨
      (s.fault = false ∧ ∃ c info, c ≠ .transcodingFailure ∧ t = recordFault c info s) ∨
      (s.fault = true ∧ t = s) := by
  rcases exec_next_cases h with ⟨hrun, hdone⟩ | ⟨hf, c, info, hraise, ht⟩ | hstay
  · exact .inl ⟨hrun, writes_of_effectOf_done hdone⟩
  · exact .inr (.inl ⟨hf, c, info, effectOf_raise_ne_transcodingFailure hraise, ht⟩)
  · exact .inr (.inr hstay)

end Sys2Proof.Machine
end

section
/-! PROOFS (10_state.md R20-R22, R34, R35). The configuration, the registers, the fault record and the flags: what each
completed command leaves, and the statements O10, O16, O17, O19, O20. -/

open Sys2Proof.Spec

namespace Sys2Proof.Machine

section
variable {i : Instr} {s t : State}

/-! ## Frames of a completed command -/

theorem Writes.cfg_inbox_eq (h : Writes s i t) : t.cfg = s.cfg ∧ t.inbox = s.inbox := by
  cases h <;> simp [selected, assembled, blocked]

theorem Writes.eq_applyReset (h : Writes s .reset t) : t = applyReset s := by
  cases h with
  | reset => rfl
  | read _ hi => cases hi

theorem Writes.faultRecord_eq (h : Writes s i t) (hi : i ≠ .reset) :
    t.fault = s.fault ∧ t.errcode = s.errcode ∧ t.errinfo = s.errinfo := by
  cases h with
  | reset => exact absurd rfl hi
  | _ => simp [selected, assembled, blocked]

theorem Writes.selectionRegisters_eq (h : Writes s i t) (hi : i ≠ .reset) (hsel : ∀ a l, i ≠ .asmSelect a l)
    (henc : ∀ a l, i ≠ .asmEncode a l) :
    t.mode = s.mode ∧ t.level = s.level ∧ t.version = s.version ∧ t.count = s.count := by
  cases h with
  | reset => exact absurd rfl hi
  | asmSelect a hs => exact absurd rfl (hsel a _)
  | asmEncode a hs hd hb => exact absurd rfl (henc a _)
  | _ => simp [assembled, blocked]

theorem Writes.genR_eq (h : Writes s i t) (hi : i ≠ .reset) (hgen : ∀ r, i ≠ .rsGen r) : t.genR = s.genR := by
  cases h with
  | reset => exact absurd rfl hi
  | rsGen hr => exact absurd rfl (hgen _)
  | _ => simp [selected, assembled, blocked]

theorem Writes.stream_eq (h : Writes s i t) (hi : i ≠ .reset) (hw : writesStream i = false) :
    t.bsLen = s.bsLen ∧ t.bs = s.bs := by
  cases h with
  | reset => exact absurd rfl hi
  | bsClear | bsWrite | segWrite | asmData | asmEncode => simp [writesStream] at hw
  | _ => simp [selected, blocked]

theorem Writes.readerSource_eq (h : Writes s i t) (hi : i ≠ .reset) (hinit : ∀ b, i ≠ .rdInit b) :
    t.rdSrc = s.rdSrc ∧ t.rdLen = s.rdLen := by
  cases h with
  | reset => exact absurd rfl hi
  | rdInit hb => exact absurd rfl (hinit _)
  | _ => simp [selected, assembled, blocked]

theorem Writes.readerCursor_eq (h : Writes s i t) (hi : i ≠ .reset) (hinit : ∀ b, i ≠ .rdInit b) (hbit : i ≠ .rdBit) :
    t.rdByte = s.rdByte ∧ t.rdBit = s.rdBit := by
  cases h with
  | reset => exact absurd rfl hi
  | rdInit hb => exact absurd rfl (hinit _)
  | rdBit => exact absurd rfl hbit
  | _ => simp [selected, assembled, blocked]

theorem Writes.blockRegisters_eq (h : Writes s i t) (hi : i ≠ .reset) (hblk : i ≠ .asmBlocks)
    (henc : ∀ a l, i ≠ .asmEncode a l) : t.nblocks = s.nblocks ∧ t.ecpb = s.ecpb := by
  cases h with
  | reset => exact absurd rfl hi
  | asmBlocks => exact absurd rfl hblk
  | asmEncode a hs hd hb => exact absurd rfl (henc a _)
  | _ => simp [selected, assembled]

theorem namesRes_of_writesOnlyRes (hi : writesOnlyRes i = true) : namesRes i = true := by
  cases i with
  | nop | bufClear | bufPush | bsClear | bsWrite | rdInit => cases hi
  | _ => rfl

theorem Writes.res_eq (h : Writes s i t) (hn : namesRes i = false) : t.res = s.res := by
  cases h with
  | nop => rfl
  | bufClear | bufPush | bsClear | bsWrite | rdInit => simp
  | read v hi => rw [namesRes_of_writesOnlyRes hi] at hn; cases hn
  | reset | segWrite | rdBit | rsGen | rsEnc | rsSynd | asmSelect | asmData | asmBlocks | asmEncode => cases hn

/-! ## The fault record -/

theorem FaultCode.code_ne_zero (c : FaultCode) : c.code ≠ 0 := by cases c <;> decide

/-- While FAULT = 1 a command other than RESET keeps the record, whether it runs or is discarded (R403, R408). -/
theorem exec_keeps_recorded_fault (hf : s.fault = true) (hi : i ≠ .reset) (h : exec i s = .next t) :
    t.fault = true ∧ t.errcode = s.errcode ∧ t.errinfo = s.errinfo := by
  rcases exec_next_writes h with ⟨_, hw⟩ | ⟨hok, _⟩ | ⟨_, rfl⟩
  · obtain ⟨h1, h2, h3⟩ := hw.faultRecord_eq hi
    exact ⟨h1.trans hf, h2, h3⟩
  · rw [hf] at hok; cases hok
  · exact ⟨hf, rfl, rfl⟩

/-! ## The configuration -/

theorem exec_keeps_cfg_inbox (h : exec i s = .next t) : t.cfg = s.cfg ∧ t.inbox = s.inbox := by
  rcases exec_next_writes h with ⟨_, hw⟩ | ⟨_, c, info, _, rfl⟩ | ⟨_, rfl⟩
  · exact hw.cfg_inbox_eq
  · simp
  · exact ⟨rfl, rfl⟩

theorem illegalWord_next_cases {op : Byte} (h : illegalWord op s = .next t) :
    t = s ∨ (s.fault = false ∧ t = recordFault .illegalCommand (zextByte op) s) := by
  rcases gated_next_cases h with ⟨_, ht⟩ | ⟨_, h⟩ | ⟨hf, c, info, h, ht⟩
  · exact .inl ht
  · cases h
  · cases h; exact .inr ⟨hf, ht⟩

/-! ## Commands that run in the fault state -/

theorem runsInFaultState_cases (h : runsInFaultState i = true) : i = .nop ∨ i = .reset ∨ ∃ n, i = .regRead n := by
  cases i with
  | nop => exact .inl rfl
  | reset => exact .inr (.inl rfl)
  | regRead n => exact .inr (.inr ⟨n, rfl⟩)
  | _ => cases h

/-! ## Reading commands -/

theorem State.readByte_congr (hbs : t.bs = s.bs) (hmem : t.mem = s.mem) (b : BufId) (j : Nat) :
    t.readByte b j = s.readByte b j := by
  unfold State.readByte
  rw [State.bufBytes_congr hbs (by rw [hmem])]

theorem Writes.eq_setRes_of_writesOnlyRes (h : Writes s i t) (hi : writesOnlyRes i = true) : ∃ v, t = s.setRes v := by
  cases h with
  | read v _ => exact ⟨v, rfl⟩
  | _ => cases hi

/-! ## The layout of STATUS -/

theorem getLsbD_flagWord_shiftLeft (b : Bool) {k : Nat} (hk : k < 32) (n : Nat) :
    (flagWord b <<< k).getLsbD n = (decide (n = k) && b) := by
  cases b with
  | false => simp [flagWord]
  | true =>
    change ((1#32) <<< k).getLsbD n = _
    rw [BitVec.getLsbD_shiftLeft, BitVec.getLsbD_one, Bool.eq_iff_iff]
    simp; omega

theorem getLsbD_errcode_shiftLeft (e : BitVec 4) (n : Nat) :
    (e.zeroExtend 32 <<< 8).getLsbD n = (decide (8 ≤ n) && e.getLsbD (n - 8)) := by
  rw [BitVec.getLsbD_shiftLeft, BitVec.getLsbD_setWidth]
  by_cases hn : n < 12
  · have h32 : n < 32 ∧ n - 8 < 32 := by omega
    rw [Bool.eq_iff_iff]; simp [h32]
  · have hhigh : e.getLsbD (n - 8) = false := BitVec.getLsbD_of_ge _ _ (by omega)
    simp [hhigh]

/-- STATUS bit by bit: the four flags in bits 0 to 3, ERRCODE from bit 8 up, and 0 elsewhere (R21). -/
theorem State.getLsbD_status (s : State) (n : Nat) :
    s.status.getLsbD n = (decide (n = 0) && s.fault || decide (n = 1) && s.selValid || decide (n = 2) && s.dataValid ||
      decide (n = 3) && s.finalValid || decide (8 ≤ n) && s.errcode.getLsbD (n - 8)) := by
  have h0 : (flagWord s.fault).getLsbD n = (decide (n = 0) && s.fault) := by
    simpa using getLsbD_flagWord_shiftLeft s.fault (k := 0) (by decide) n
  simp only [State.status, BitVec.getLsbD_or, h0, getLsbD_errcode_shiftLeft,
    getLsbD_flagWord_shiftLeft _ (show 1 < 32 by decide), getLsbD_flagWord_shiftLeft _ (show 2 < 32 by decide),
    getLsbD_flagWord_shiftLeft _ (show 3 < 32 by decide)]

theorem State.status_layout (s : State) :
    s.status.getLsbD 0 = s.fault ∧ s.status.getLsbD 1 = s.selValid ∧ s.status.getLsbD 2 = s.dataValid ∧
      s.status.getLsbD 3 = s.finalValid ∧ s.status.extractLsb' 4 4 = 0 ∧ s.status.extractLsb' 8 4 = s.errcode ∧
      s.status.extractLsb' 12 20 = 0 := by
  refine ⟨(s.getLsbD_status 0).trans (by simp), (s.getLsbD_status 1).trans (by simp),
    (s.getLsbD_status 2).trans (by simp), (s.getLsbD_status 3).trans (by simp), ?_, ?_, ?_⟩ <;>
    refine BitVec.eq_of_getLsbD_eq fun n hn => ?_ <;>
    rw [BitVec.getLsbD_extractLsb', s.getLsbD_status]
  · have hlow : ¬ 8 ≤ 4 + n := by omega
    simp [hlow]; omega
  · simp [hn]; omega
  · have hhigh : s.errcode.getLsbD (12 + n - 8) = false := BitVec.getLsbD_of_ge _ _ (by omega)
    simp [hhigh]; omega

/-! ## Who sets and clears the flags -/

theorem BufId.ofWritableCode?_cases {b : Byte} {buf : BufId} (h : BufId.ofWritableCode? b.toNat = some buf) :
    (b = 0 ∧ buf = .inbuf) ∨ (b = 1 ∧ buf = .rsin) := by
  unfold BufId.ofWritableCode? at h
  split at h
  · next hb => exact .inl ⟨BitVec.eq_of_toNat_eq hb, (Option.some.inj h).symm⟩
  · next hb => exact .inr ⟨BitVec.eq_of_toNat_eq hb, (Option.some.inj h).symm⟩
  · cases h

theorem Writes.selValid_set (h : Writes s i t) (hs : s.selValid = false) (ht : t.selValid = true) :
    (∃ a l, i = .asmSelect a l) ∨ ∃ a l, i = .asmEncode a l := by
  cases h with
  | asmSelect a => exact .inl ⟨a, _, rfl⟩
  | asmEncode a => exact .inr ⟨a, _, rfl⟩
  | bufClear | bufPush => simp [State.inputChanged_eq, hs] at ht
  | _ => simp_all [assembled, blocked]

/-- A write to INBUF clears SEL_VALID; the one to RSIN leaves it (R281). -/
theorem State.inputChanged_clears {b : Byte} {buf : BufId} (hb : BufId.ofWritableCode? b.toNat = some buf)
    (hs : s.selValid = true) (ht : (s.inputChanged buf).selValid = false) : b = 0 := by
  rcases BufId.ofWritableCode?_cases hb with ⟨rfl, _⟩ | ⟨_, rfl⟩
  · rfl
  · simp [State.inputChanged_eq, hs] at ht

theorem Writes.selValid_cleared (h : Writes s i t) (hs : s.selValid = true) (ht : t.selValid = false) :
    i = .bufClear 0 ∨ (∃ v, i = .bufPush 0 v) ∨ i = .reset := by
  cases h with
  | reset => exact .inr (.inr rfl)
  | bufClear hb => obtain rfl := State.inputChanged_clears (s := s.setBuf _ _) hb hs ht; exact .inl rfl
  | bufPush v hb => obtain rfl := State.inputChanged_clears (s := s.setBuf _ _) hb hs ht; exact .inr (.inl ⟨v, rfl⟩)
  | _ => simp_all [selected, assembled, blocked]

theorem Writes.dataValid_set (h : Writes s i t) (hs : s.dataValid = false) (ht : t.dataValid = true) :
    i = .asmData ∨ ∃ a l, i = .asmEncode a l := by
  cases h with
  | asmData => exact .inl rfl
  | asmEncode a => exact .inr ⟨a, _, rfl⟩
  | _ => simp_all [selected, blocked]

theorem Writes.dataValid_cleared (h : Writes s i t) (hs : s.dataValid = true) (ht : t.dataValid = false) :
    (∃ a l, i = .asmSelect a l) ∨ i = .reset := by
  cases h with
  | reset => exact .inr rfl
  | asmSelect a => exact .inl ⟨a, _, rfl⟩
  | _ => simp_all [assembled, blocked]

theorem Writes.finalValid_set (h : Writes s i t) (hs : s.finalValid = false) (ht : t.finalValid = true) :
    i = .asmBlocks ∨ ∃ a l, i = .asmEncode a l := by
  cases h with
  | asmBlocks => exact .inl rfl
  | asmEncode a => exact .inr ⟨a, _, rfl⟩
  | _ => simp_all [selected, assembled]

theorem Writes.finalValid_cleared (h : Writes s i t) (hs : s.finalValid = true) (ht : t.finalValid = false) :
    (∃ a l, i = .asmSelect a l) ∨ i = .asmData ∨ i = .reset := by
  cases h with
  | reset => exact .inr (.inr rfl)
  | asmSelect a => exact .inl ⟨a, _, rfl⟩
  | asmData => exact .inr (.inl rfl)
  | _ => simp_all [blocked]

end

/-! ## The statements -/

/-- Settles O10: a completed command leaves the record, RESET clears both fields, and a fault's code is not 0. -/
theorem onlyResetWritesARecordedFault : Obligations.OnlyResetWritesARecordedFault := by
  refine ⟨fun i s t hs h => ?_, fun i s t hf hi h => exec_keeps_recorded_fault hf hi h⟩
  rcases exec_next_writes h with ⟨_, hw⟩ | ⟨_, c, info, _, rfl⟩ | ⟨_, rfl⟩
  · by_cases hi : i = .reset
    · subst hi; simp [hw.eq_applyReset]
    · obtain ⟨h1, h2, _⟩ := hw.faultRecord_eq hi
      rw [h1, h2]; exact hs
  · simpa using c.code_ne_zero
  · exact hs

/-- Settles O16: neither a command, an illegal word nor the reset input writes the configuration. -/
theorem configurationIsNeverWritten : Obligations.ConfigurationIsNeverWritten := by
  intro s t h
  obtain ⟨_, hstep⟩ := step_next_cases h
  rcases hstep with ⟨hin, rfl⟩ | ⟨rest, hin, rfl⟩ | ⟨w, rest, hin, ⟨_, _, hill⟩ | ⟨i, _, hexec⟩⟩
  · simp [hin]
  · simp [hin]
  · rcases illegalWord_next_cases hill with rfl | ⟨_, rfl⟩ <;> simp [hin]
  · simpa [hin] using exec_keeps_cfg_inbox hexec

/-- Settles O17: a completed command leaves the registers its row does not name, and a fault record leaves them all. -/
theorem registersAreWrittenByTheirCommands : Obligations.RegistersAreWrittenByTheirCommands := by
  intro i s t h hi
  rcases exec_next_writes h with ⟨hrun, hw⟩ | ⟨hf, c, info, _, rfl⟩ | ⟨_, rfl⟩
  · obtain ⟨hfault, _, herrinfo⟩ := hw.faultRecord_eq hi
    refine ⟨hw.selectionRegisters_eq hi, hw.genR_eq hi, hw.stream_eq hi, hw.readerSource_eq hi, hw.readerCursor_eq hi,
      hw.blockRegisters_eq hi, hw.res_eq, fun htf hres => ?_, fun hne => absurd herrinfo hne⟩
    have hsf : s.fault = true := hfault ▸ htf
    rcases runsInFaultState_cases (hrun.resolve_left (by simp [hsf])) with rfl | rfl | hread
    · exact absurd (hw.res_eq rfl) hres
    · exact absurd rfl hi
    · exact ⟨hsf, hread⟩
  · simp [hf]
  · simp

/-- Settles O20: a reading command answers with RES written, with a fault recorded, or with the state unchanged. -/
theorem readingCommandsChangeOnlyRes : Obligations.ReadingCommandsChangeOnlyRes := by
  intro i s t hi h
  rcases exec_next_writes h with ⟨_, hw⟩ | ⟨_, c, info, _, rfl⟩ | ⟨_, rfl⟩
  · obtain ⟨v, rfl⟩ := hw.eq_setRes_of_writesOnlyRes hi
    exact ⟨.inl rfl, State.readByte_congr rfl rfl⟩
  · exact ⟨.inr ⟨c, info, rfl⟩, State.readByte_congr rfl rfl⟩
  · exact ⟨.inl rfl, fun _ _ => rfl⟩

/-- Settles O19: the layout bit by bit; a flag changes only by a completed command, and a record only by RESET. -/
theorem statusLayoutAndFlagWriters : Obligations.StatusLayoutAndFlagWriters := by
  refine ⟨State.status_layout, fun i s t h => ?_⟩
  have hfault : s.fault = true → t.fault = false → i = .reset := by
    intro hs ht
    by_contra hi
    simp [exec_keeps_recorded_fault hs hi h] at ht
  have hcode : s.errcode ≠ 0 → t.errcode = 0 → s.fault = true → i = .reset := by
    intro hs ht hf
    by_contra hi
    obtain ⟨_, hkept, _⟩ := exec_keeps_recorded_fault hf hi h
    exact hs (hkept ▸ ht)
  rcases exec_next_writes h with ⟨_, hw⟩ | ⟨_, c, info, _, rfl⟩ | ⟨_, rfl⟩
  · exact ⟨hfault, hw.selValid_set, hw.selValid_cleared, hw.dataValid_set, hw.dataValid_cleared, hw.finalValid_set,
      hw.finalValid_cleared, hcode⟩
  -- A fault record or a discarded word leaves the stage flags.
  all_goals refine ⟨hfault, ?_, ?_, ?_, ?_, ?_, ?_, hcode⟩ <;> simp_all

end Sys2Proof.Machine
end

section
/-! PROOFS (10_state.md R20, R22, R30, R32; 20_memory.md R50; 46_assembler.md R281-R283; 60_exceptions.md R400). The
invariant of Safety.lean: one lemma for each kind of write, then every command, then the step (O14). -/

open Sys2Proof.Spec

/-! ## Values that fit their register or their table -/

namespace Sys2Proof

theorem toNat_zextByte (b : Byte) : (zextByte b).toNat = b.toNat := by
  have := b.isLt
  simp; omega

theorem zextByte_eq_zero_iff (b : Byte) : zextByte b = 0 ↔ b = 0 := by
  rw [← BitVec.toNat_inj, toNat_zextByte, ← BitVec.toNat_inj]; rfl

theorem toNat_ofNat_of_le {n k : Nat} (h : n ≤ k) (hk : k < 2 ^ 32) : (BitVec.ofNat 32 n).toNat = n := by
  rw [BitVec.toNat_ofNat, Nat.mod_eq_of_lt (by omega)]

theorem Mode.code_le (m : Mode) : m.code ≤ 2 := by cases m <;> decide

theorem Mode.ofCode?_code (m : Mode) : Mode.ofCode? m.code = some m := by cases m <;> rfl

theorem ceilBytes_mono {n k : Nat} (h : n ≤ k) : ceilBytes n ≤ ceilBytes k := by unfold ceilBytes; omega

/-- The bounds that R226 and R53 put on a profile of the table. -/
theorem Config.wf_profile_bounds {cfg : Config} (h : cfg.wf = true) {v l : Nat} {p : Profile}
    (hp : cfg.profile? v l = some p) :
    p.blocks ≤ 255 ∧ 1 ≤ p.ecPerBlock ∧ p.ecPerBlock ≤ cfg.rsMaxEc ∧
      p.g1Blocks * p.g1Data + p.g2Blocks * p.g2Data = p.totalData ∧ p.totalData ≤ cfg.maxData ∧
      p.blocks * p.ecPerBlock ≤ cfg.maxEcall ∧ p.totalData + p.blocks * p.ecPerBlock ≤ cfg.maxFinal := by
  obtain ⟨hok, hfits⟩ := Config.wf_profile h hp
  simp only [Profile.ok, Profile.fits, Bool.and_eq_true, decide_eq_true_eq] at hok hfits
  tauto

end Sys2Proof

namespace Sys2Proof.Machine

theorem FaultCode.code_le (c : FaultCode) : c.code.toNat ≤ 9 := by cases c <;> decide

theorem FaultCode.code_ne_transcodingFailure {c : FaultCode} (h : c ≠ .transcodingFailure) :
    c.code ≠ FaultCode.transcodingFailure.code := by
  cases c with
  | transcodingFailure => exact absurd rfl h
  | _ => decide

theorem degreeOk_iff (cfg : Config) (r : Nat) : degreeOk cfg r = true ↔ 1 ≤ r ∧ r ≤ cfg.rsMaxEc := by
  simp [degreeOk]

/-! ## What the invariant gives -/

section
variable {s : State}

theorem State.Inv.get_length_le (h : s.Inv) (b : BufId) : (s.mem.get b).length ≤ bufCapacity s.cfg b :=
  (Memory.wf_iff _ _).mp h.memory b

theorem State.Inv.bufLen_le (h : s.Inv) (b : BufId) : s.bufLen b ≤ bufCapacity s.cfg b := by
  cases b with
  | bsbytes =>
    obtain ⟨heq, hle⟩ := h.stream
    exact ceilBytes_mono (heq ▸ hle)
  | _ => exact h.get_length_le _

theorem State.Inv.inbuf_length_le (h : s.Inv) : s.mem.inbuf.length ≤ s.cfg.inMax := h.get_length_le .inbuf

/-! ## Writes outside the assembler -/

theorem inv_resetWith {cfg : Config} (inbox : List HostInput) (h : cfg.wf = true) : (State.resetWith cfg inbox).Inv where
  config := h
  faults := ⟨⟨fun _ => rfl, fun _ => rfl⟩, nofun, Nat.zero_le _⟩
  stream := ⟨rfl, Nat.zero_le _⟩
  memory := Memory.wf_empty cfg
  reader := ⟨⟨.inbuf, rfl, Nat.zero_le _⟩, le_refl _, Nat.zero_le _, fun _ => rfl⟩
  generator := ⟨Nat.zero_le _, rfl⟩
  registers := ⟨Nat.zero_le _, Nat.zero_le _, Nat.zero_le _, Nat.zero_le _, Nat.zero_le _, Nat.zero_le _⟩
  selection := nofun
  data := ⟨nofun, fun _ => rfl⟩
  final := ⟨nofun, fun _ => ⟨rfl, rfl⟩⟩

/-- The invariant says nothing of the inputs still to come. -/
theorem State.Inv.withInbox (h : s.Inv) (inbox : List HostInput) : State.Inv { s with inbox := inbox } :=
  ⟨h.config, h.faults, h.stream, h.memory, h.reader, h.generator, h.registers, h.selection, h.data, h.final⟩

/-- The invariant says nothing of RES. -/
theorem State.Inv.setRes (h : s.Inv) (v : Word) : (s.setRes v).Inv :=
  ⟨h.config, h.faults, h.stream, h.memory, h.reader, h.generator, h.registers, h.selection, h.data, h.final⟩

theorem State.Inv.recordFault (h : s.Inv) {c : FaultCode} (hc : c ≠ .transcodingFailure) (info : Word) :
    (recordFault c info s).Inv where
  __ := h
  faults := ⟨by simpa using c.code_ne_zero, c.code_ne_transcodingFailure hc, c.code_le⟩

theorem State.Inv.setStream (h : s.Inv) {bits : List Bool} (hroom : bits.length ≤ s.cfg.bsMaxBits) :
    (s.setStream bits).Inv := by
  obtain ⟨_, _, hmax, _⟩ := Config.wf_width h.config
  exact { h with stream := ⟨toNat_ofNat_of_le hroom hmax, hroom⟩ }

/-- A write to INBUF or RSIN: a change of INBUF ends the selection (R281). -/
theorem State.Inv.hostWrite (h : s.Inv) {b : Byte} {buf : BufId} (hb : BufId.ofWritableCode? b.toNat = some buf)
    {bytes : List Byte} (hlen : bytes.length ≤ bufCapacity s.cfg buf) : ((s.setBuf buf bytes).inputChanged buf).Inv := by
  have hmem := Memory.wf_put h.memory hlen
  rcases BufId.ofWritableCode?_cases hb with ⟨_, rfl⟩ | ⟨_, rfl⟩
  · exact { h with memory := hmem, selection := nofun }
  · exact { h with memory := hmem }

theorem State.Inv.rdInit (h : s.Inv) {b : Byte} {src : BufId} (hb : BufId.ofCode? b.toNat = some src) :
    State.Inv { s with rdSrc := zextByte b, rdByte := 0, rdBit := 0, rdLen := BitVec.ofNat 32 (s.bufLen src) } where
  __ := h
  reader := by
    refine ⟨⟨src, by rwa [toNat_zextByte], ?_⟩, Nat.zero_le _, Nat.zero_le _, fun _ => rfl⟩
    rw [BitVec.toNat_ofNat]
    exact (Nat.mod_le _ _).trans (h.bufLen_le src)

/-- Popping a bit leaves the cursor inside the source, or at its end with RD_BIT = 0 (R32, R136). -/
theorem State.Inv.advanceReader (h : s.Inv) (hbyte : s.rdByte.toNat < s.rdLen.toNat) (hbit : s.rdBit.toNat ≤ 7) :
    s.advanceReader.Inv := by
  have hsrc := h.reader.1
  unfold State.advanceReader
  split
  case isTrue =>
    have hnext : (s.rdByte + 1).toNat ≤ s.rdLen.toNat := by bv_omega
    exact { h with reader := ⟨hsrc, hnext, Nat.zero_le _, fun _ => rfl⟩ }
  case isFalse hne =>
    have hnext : (s.rdBit + 1).toNat ≤ 7 := by bv_omega
    exact { h with reader := ⟨hsrc, hbyte.le, hnext, fun he => absurd (congrArg BitVec.toNat he) hbyte.ne⟩ }

theorem State.Inv.rsGen (h : s.Inv) {r : Byte} (hr : degreeOk s.cfg r.toNat = true) :
    State.Inv { s.setBuf .gen (buildGenerator r.toNat) with genR := zextByte r } := by
  obtain ⟨hpos, hle⟩ := (degreeOk_iff _ _).mp hr
  have hne : zextByte r ≠ 0 := by rw [Ne, zextByte_eq_zero_iff]; rintro rfl; exact absurd hpos (by decide)
  have hlen : (buildGenerator r.toNat).length ≤ s.cfg.rsMaxEc + 1 := by rw [buildGenerator_length hpos]; omega
  exact { h with
    memory := Memory.wf_put (b := .gen) h.memory hlen
    generator := ⟨by rwa [toNat_zextByte], by rw [if_neg hne, toNat_zextByte]; rfl⟩ }

/-- RS_ENC and RS_SYND write a result of at most RS_MAX_EC bytes, which the invariant does not describe further. -/
theorem State.Inv.setResult (h : s.Inv) {b : BufId} (hb : b = .rsout ∨ b = .synd) {bytes : List Byte}
    (hlen : bytes.length ≤ s.cfg.rsMaxEc) : (s.setBuf b bytes).Inv := by
  rcases hb with rfl | rfl
  · exact { h with memory := Memory.wf_put (b := .rsout) h.memory hlen }
  · exact { h with memory := Memory.wf_put (b := .synd) h.memory hlen }

/-! ## The assembler's stages -/

theorem State.Inv.selected (h : s.Inv) {m : Mode} {l : Byte} {v : Nat} (hs : Selects s m l v) :
    (selected s m l v).Inv := by
  obtain ⟨_, hv, _⟩ := findVersion_some hs.version
  obtain ⟨_, _, _, _, hnb, hec⟩ := h.registers
  have hmode : (BitVec.ofNat 32 m.code).toNat = m.code := toNat_ofNat_of_le m.code_le (by decide)
  have hversion : (BitVec.ofNat 32 v).toNat = v := toNat_ofNat_of_le hv (by decide)
  have hcount : (BitVec.ofNat 32 s.mem.inbuf.length).toNat = s.mem.inbuf.length :=
    toNat_ofNat_of_le h.inbuf_length_le (Config.wf_width h.config).1
  have hlevel : (zextByte l).toNat = l.toNat := toNat_zextByte l
  have hfound : findVersion s.cfg m (zextByte l).toNat s.mem.inbuf.length = some (BitVec.ofNat 32 v).toNat := by
    rw [hlevel, hversion]; exact hs.version
  have hmem : (((s.mem.put .data []).put .ecall []).put .final []).wf s.cfg = true :=
    Memory.wf_put (Memory.wf_put (Memory.wf_put h.memory (Nat.zero_le _)) (Nat.zero_le _)) (Nat.zero_le _)
  exact { h with
    memory := hmem
    registers := ⟨hmode.trans_le m.code_le, hlevel.trans_le hs.level, hversion.trans_le hv,
      hcount.trans_le h.inbuf_length_le, hnb, hec⟩
    selection := fun _ => ⟨m, hmode ▸ m.ofCode?_code, Option.isNone_iff_eq_none.mpr hs.text, hcount, hfound⟩
    data := ⟨nofun, fun _ => rfl⟩
    final := ⟨nofun, fun _ => ⟨rfl, rfl⟩⟩ }

theorem State.Inv.assembled (h : s.Inv) {m : Mode} {p : Profile} {bits : List Bool} (hd : Assembles s m p bits) :
    (assembled s p bits).Inv := by
  obtain ⟨_, _, _, _, hdata, _, _⟩ := Config.wf_profile_bounds h.config hd.profile
  obtain ⟨_, _, _, _, hbs⟩ := Config.wf_bounds h.config
  obtain ⟨_, _, _, hcount, _⟩ := h.selection hd.valid
  have hbits : bits.length ≤ s.cfg.bsMaxBits := by rw [assembleData_length hd.stream]; omega
  have hlen : (finalize bits).length ≤ s.cfg.maxData := by rwa [finalize_assembleData_length hd.stream]
  have hmem : (((s.mem.put .data (finalize bits)).put .ecall []).put .final []).wf s.cfg = true :=
    Memory.wf_put (Memory.wf_put (Memory.wf_put h.memory hlen) (Nat.zero_le _)) (Nat.zero_le _)
  exact { h with
    stream := (h.setStream hbits).stream
    memory := hmem
    data := ⟨fun _ => ⟨m, p, s.mem.inbuf, bits, hd.mode, hd.profile, hd.text, hcount.symm, hd.stream, rfl⟩, nofun⟩
    final := ⟨nofun, fun _ => ⟨rfl, rfl⟩⟩ }

/-- DATA holds as many bytes as its profile's blocks take (R220, R285). -/
theorem State.Inv.data_length (h : s.Inv) {p : Profile} (hb : Blocks s p) : s.mem.data.length = p.totalData := by
  obtain ⟨_, p', _, bits, _, hp, _, _, hbits, hdata⟩ := h.data.1 hb.valid
  obtain rfl : p' = p := Option.some.inj (hp.symm.trans hb.profile)
  rw [hdata, finalize_assembleData_length hbits]

theorem State.Inv.blocked (h : s.Inv) {p : Profile} (hb : Blocks s p) : (blocked s p).Inv := by
  obtain ⟨hblocks, hec, hecMax, hsum, _, hecall, hfinal⟩ := Config.wf_profile_bounds h.config hb.profile
  obtain ⟨hmode, hlevel, hversion, hcount, _, _⟩ := h.registers
  obtain ⟨_, _, _, hrs, _⟩ := Config.wf_bounds h.config
  have hnb : (BitVec.ofNat 32 p.blocks).toNat = p.blocks := toNat_ofNat_of_le hblocks (by decide)
  have hep : (BitVec.ofNat 32 p.ecPerBlock).toNat = p.ecPerBlock := toNat_ofNat_of_le (hecMax.trans hrs) (by decide)
  have hdata := h.data_length hb
  have hecLen : (ecBlocks p (splitBlocks p s.mem.data)).flatten.length = p.blocks * p.ecPerBlock := by
    rw [ecBlocks_flatten_length _ hec, splitBlocks_length]
  have hfinalLen : (finalStream (splitBlocks p s.mem.data) (ecBlocks p (splitBlocks p s.mem.data))).length =
      p.totalData + p.blocks * p.ecPerBlock := by
    rw [finalStream, List.length_append, interleave_length, interleave_length, hecLen,
      splitBlocks_flatten p _ (hdata.trans hsum.symm), hdata]
  have hmem := Memory.wf_put (b := .final) (Memory.wf_put (b := .ecall) h.memory (hecLen.trans_le hecall))
    (hfinalLen.trans_le hfinal)
  exact { h with
    memory := hmem
    registers := ⟨hmode, hlevel, hversion, hcount, hnb.trans_le hblocks, hep.trans_le hecMax⟩
    final := ⟨fun _ => ⟨hb.valid, p, hb.profile, rfl, rfl, hnb, hep⟩, nofun⟩ }

/-! ## Commands and steps -/

theorem Writes.inv {i : Instr} {t : State} (h : Writes s i t) (hs : s.Inv) : t.Inv := by
  cases h with
  | nop => exact hs
  | reset => exact inv_resetWith s.inbox hs.config
  | read v _ => exact hs.setRes v
  | bufClear hb => exact hs.hostWrite hb (Nat.zero_le _)
  | bufPush v hb hroom =>
    have hlt := lt_of_le_of_ne (hs.get_length_le _) hroom
    exact hs.hostWrite hb (by simpa using hlt)
  | bsClear => exact hs.setStream (Nat.zero_le _)
  | bsWrite n value hroom => exact hs.setStream hroom
  | segWrite m n hroom => exact (hs.setStream hroom).setRes _
  | rdInit hb => exact hs.rdInit hb
  | rdBit v hbyte hbit => exact (hs.setRes v).advanceReader hbyte hbit
  | rsGen hr => exact (hs.rsGen hr).setRes _
  | rsEnc v hr =>
    obtain ⟨hpos, hle⟩ := (degreeOk_iff _ _).mp hr
    exact (hs.setResult (.inl rfl) (by rwa [generateEC_length _ hpos])).setRes v
  | rsSynd v hr =>
    obtain ⟨_, hle⟩ := (degreeOk_iff _ _).mp hr
    exact (hs.setResult (.inr rfl) (by rwa [syndromes_length])).setRes v
  | asmSelect a hsel => exact hs.selected hsel
  | asmData hd => exact hs.assembled hd
  | asmBlocks hb => exact hs.blocked hb
  | asmEncode a hsel hd hb => exact ((hs.selected hsel).assembled hd).blocked hb

theorem exec_keeps_inv {i : Instr} {t : State} (hs : s.Inv) (h : exec i s = .next t) : t.Inv := by
  rcases exec_next_writes h with ⟨_, hw⟩ | ⟨_, c, info, hc, rfl⟩ | ⟨_, rfl⟩
  · exact hw.inv hs
  · exact hs.recordFault hc info
  · exact hs

theorem illegalWord_keeps_inv {op : Byte} {t : State} (hs : s.Inv) (h : illegalWord op s = .next t) : t.Inv := by
  rcases illegalWord_next_cases h with rfl | ⟨_, rfl⟩
  · exact hs
  · exact hs.recordFault (by decide) _

end

/-- Settles O14: a silent host leaves the state, the reset input gives the reset state, and a word's command or fault
record keeps the invariant from the state without that word. -/
theorem stepKeepsTheInvariant : Obligations.StepKeepsTheInvariant := by
  intro s t hs h
  obtain ⟨_, hstep⟩ := step_next_cases h
  rcases hstep with ⟨_, rfl⟩ | ⟨rest, _, rfl⟩ | ⟨w, rest, _, ⟨_, _, hill⟩ | ⟨i, _, hexec⟩⟩
  · exact hs
  · exact inv_resetWith rest hs.config
  · exact illegalWord_keeps_inv (hs.withInbox rest) hill
  · exact exec_keeps_inv (hs.withInbox rest) hexec

end Sys2Proof.Machine
end

section
/-! PROOFS (10_state.md R31). finalize packs the bitstream most significant bit first (O30). -/

namespace Sys2Proof

/-! ## The bits of a packed byte -/

theorem bitsValue_append_singleton (bits : List Bool) (b : Bool) :
    bitsValue (bits ++ [b]) = Nat.bit b (bitsValue bits) := by
  simp [bitsValue, Nat.bit_val]

/-- Bit j of the number a sequence denotes is the j-th bit from its end (R54). -/
theorem testBit_bitsValue (bits : List Bool) (j : Nat) : (bitsValue bits).testBit j = bits.reverse.getD j false := by
  induction bits using List.reverseRecOn generalizing j with
  | nil => simp [bitsValue]
  | append_singleton bits b ih =>
    rw [bitsValue_append_singleton, List.reverse_append]
    cases j with
    | zero => simp
    | succ j => simpa [Nat.testBit_bit_succ] using ih j

theorem getLsbD_packByte {bits : List Bool} (hlen : bits.length ≤ 8) {t : Nat} (ht : t ≤ 7) :
    (packByte bits).getLsbD (7 - t) = bits.getD t false := by
  have hpad : (bits ++ zeroBits (8 - bits.length)).length = 8 := by simp; omega
  have hzero : (bits ++ zeroBits (8 - bits.length)).getD t false = bits.getD t false := by
    by_cases h : t < bits.length
    · simp [List.getElem?_append_left h]
    · simp [List.getElem?_append_right (Nat.not_lt.mp h), zeroBits, List.getElem?_eq_none (Nat.not_lt.mp h)]
  rw [← hzero, packByte, BitVec.getLsbD_ofNat, testBit_bitsValue,
    List.getD_reverse _ (by omega), hpad]
  have hrev : 8 - 1 - (7 - t) = t := by omega
  simp [hrev]
  omega

/-! ## The bytes of a packed sequence -/

theorem getD_packBytes {n k : Nat} (hk : k < n) (bits : List Bool) :
    (packBytes n bits).getD k 0 = packByte ((bits.drop (8 * k)).take 8) := by
  induction n generalizing k bits with
  | zero => omega
  | succ n ih =>
    cases k with
    | zero => simp [packBytes]
    | succ k =>
      have := ih (k := k) (by omega) (bits.drop 8)
      simpa [packBytes, List.drop_drop, Nat.mul_succ, Nat.add_comm] using this

end Sys2Proof

namespace Sys2Proof.Machine

/-- Settles O30: byte k packs bits 8k to 8k + 7, and a read of BSBYTES sees finalize(BS). -/
theorem finalizePacksMsbFirst : Obligations.FinalizePacksMsbFirst := by
  refine ⟨fun bs => ⟨finalize_length bs, fun k t hk ht => ?_⟩, State.bufBytes_bsbytes⟩
  have hbyte : (finalize bs).getD k 0 = packByte ((bs.drop (8 * k)).take 8) := getD_packBytes hk bs
  rw [hbyte, getLsbD_packByte (by simp) ht]
  simp [List.getElem?_take_of_lt (Nat.lt_succ_of_le ht)]

end Sys2Proof.Machine
end

section
/-! PROOFS (20_memory.md R52; 46_assembler.md R281-R283; log entry 8). When a command is undefined, that the invariant rules
those states out, and so that every step of a run answers a next state (O15). -/

namespace Sys2Proof.Machine

/-! ## When a command is undefined (log entry 8) -/

section
variable {i : Instr} {s : State} {why : Fault}

theorem rdBitEffect_undefined_cases (h : rdBitEffect s = .undefined why) :
    BufId.ofCode? s.rdSrc.toNat = none ∨ 7 < s.rdBit.toNat := by
  unfold rdBitEffect at h
  split at h
  · next hsrc => exact .inl hsrc
  · split at h
    · cases h
    · split at h
      · cases h
      · split at h
        · next hbit => exact .inr hbit
        · cases h

theorem dataStage_undefined_cases (h : dataStage s = .undefined why) :
    s.selValid = true ∧ ∀ m p, Mode.ofCode? s.mode.toNat = some m →
      s.cfg.profile? s.version.toNat s.level.toNat = some p → representable m s.mem.inbuf = false := by
  unfold dataStage at h
  split at h
  · next hsel =>
    refine ⟨hsel, fun m p hm hp => ?_⟩
    simp only [hm, hp] at h
    split at h
    · split at h <;> cases h
    · next htext => simpa using htext
  · cases h

theorem blocksStage_undefined_cases (h : blocksStage s = .undefined why) :
    s.dataValid = true ∧ ∀ p, s.cfg.profile? s.version.toNat s.level.toNat = some p →
      s.mem.data.length < p.g1Blocks * p.g1Data + p.g2Blocks * p.g2Data := by
  unfold blocksStage at h
  split at h
  · next hdata =>
    refine ⟨hdata, fun p hp => ?_⟩
    simp only [hp] at h
    split at h
    · next hshort => exact hshort
    · cases h
  · cases h

/-- A composed effect is undefined in its first stage, or in its second after the first completed. -/
theorem Effect.andThen_undefined_cases {e : Effect} {k : State → Effect} (h : e.andThen k = .undefined why) :
    e = .undefined why ∨ ∃ t, e = .done t ∧ k t = .undefined why := by
  cases e with
  | done t => exact .inr ⟨t, rfl, h⟩
  | raise c info => cases h
  | undefined why' => exact .inl h

theorem bsWriteEffect_defined (n : Byte) (value : Word) (s : State) (why : Fault) :
    bsWriteEffect n value s ≠ .undefined why := by
  unfold bsWriteEffect
  split
  · exact appendBits_defined s _ why
  · nofun

theorem segWriteEffect_defined (m : Byte) (s : State) (why : Fault) : segWriteEffect m s ≠ .undefined why := by
  intro h
  unfold segWriteEffect at h
  split at h
  · cases h
  · split at h
    · cases h
    · rcases Effect.andThen_undefined_cases h with h | ⟨_, _, h⟩
      · exact appendBits_defined s _ why h
      · cases h

/-- The reader and the assembler alone read what a state outside the invariant may lack; every other command checks before
it reads. -/
theorem effectOf_undefined_cases (h : effectOf i s = .undefined why) :
    i = .rdBit ∨ i = .asmData ∨ i = .asmBlocks ∨ ∃ a l, i = .asmEncode a l := by
  cases i with
  | rdBit => exact .inl rfl
  | asmData => exact .inr (.inl rfl)
  | asmBlocks => exact .inr (.inr (.inl rfl))
  | asmEncode a l => exact .inr (.inr (.inr ⟨a, l, rfl⟩))
  | asmSelect a l => exact absurd h (selectStage_defined a l s why)
  | bsWrite n value => exact absurd h (bsWriteEffect_defined n value s why)
  | segWrite m => exact absurd h (segWriteEffect_defined m s why)
  | bufPush | bufRead =>
    simp only [effectOf, bufPushEffect, bufReadEffect] at h
    split at h
    · split at h <;> cases h
    · cases h
  | regRead | bufClear | bufLen | rdInit | gfDiv | gfLog | rsGen | rsEnc | rsSynd | segCheck | segCount =>
    simp only [effectOf, regReadEffect, bufClearEffect, bufLenEffect, rdInitEffect, gfDivEffect, gfLogEffect, rsGenEffect,
      rsEncEffect, rsSyndEffect, segCheckEffect, segCountEffect] at h
    split at h <;> cases h
  | nop | reset | bsClear | bsTotal | bsFinalize | rdHas | gfAdd | gfMul | gfExp | segAuto => cases h

/-! ## The invariant rules those states out -/

theorem State.Inv.rdBitEffect_defined (h : s.Inv) : rdBitEffect s ≠ .undefined why := by
  intro hu
  obtain ⟨⟨_, hsrc, _⟩, _, hbit, _⟩ := h.reader
  rcases rdBitEffect_undefined_cases hu with hnone | hlarge
  · rw [hsrc] at hnone; cases hnone
  · omega

/-- A valid selection names a row of the table, which a well-formed configuration has (R220, R281). -/
theorem State.Inv.selection_profile (h : s.Inv) (hsel : s.selValid = true) :
    ∃ p, s.cfg.profile? s.version.toNat s.level.toNat = some p := by
  obtain ⟨_, _, _, _, hfound⟩ := h.selection hsel
  obtain ⟨hpos, hle, _⟩ := findVersion_some hfound
  exact Config.wf_profile_exists h.config hpos hle h.registers.2.1

theorem State.Inv.dataStage_defined (h : s.Inv) : dataStage s ≠ .undefined why := by
  intro hu
  obtain ⟨hsel, hrow⟩ := dataStage_undefined_cases hu
  obtain ⟨m, hmode, htext, _, _⟩ := h.selection hsel
  obtain ⟨p, hp⟩ := h.selection_profile hsel
  simp [hrow m p hmode hp] at htext

theorem State.Inv.blocksStage_defined (h : s.Inv) : blocksStage s ≠ .undefined why := by
  intro hu
  obtain ⟨hdata, hshort⟩ := blocksStage_undefined_cases hu
  obtain ⟨_, p, _, _, _, hp, _⟩ := h.data.1 hdata
  obtain ⟨_, _, _, hsum, _⟩ := Config.wf_profile_bounds h.config hp
  have hlen : s.mem.data.length = p.totalData := h.data_length ⟨hdata, hp⟩
  have := hshort p hp
  omega

/-- Each stage of ASM_ENCODE starts in a state of the invariant (R293). -/
theorem State.Inv.asmEncode_defined (h : s.Inv) (a l : Byte) :
    ((selectStage a l s).andThen dataStage).andThen blocksStage ≠ .undefined why := by
  intro hu
  rcases Effect.andThen_undefined_cases hu with hu | ⟨u, hdone, hu⟩
  · rcases Effect.andThen_undefined_cases hu with hu | ⟨t, hselect, hu⟩
    · exact selectStage_defined a l s why hu
    · obtain ⟨_, _, hs, rfl⟩ := selectStage_done_selected hselect
      exact (h.selected hs).dataStage_defined hu
  · obtain ⟨t, hselect, hassemble⟩ := Effect.andThen_done_cases hdone
    obtain ⟨_, _, hs, rfl⟩ := selectStage_done_selected hselect
    obtain ⟨_, _, _, hd, rfl⟩ := dataStage_done_assembled hassemble
    exact ((h.selected hs).assembled hd).blocksStage_defined hu

theorem State.Inv.effectOf_defined (h : s.Inv) (i : Instr) : effectOf i s ≠ .undefined why := by
  intro hu
  rcases effectOf_undefined_cases hu with rfl | rfl | rfl | ⟨a, l, rfl⟩
  · exact h.rdBitEffect_defined hu
  · exact h.dataStage_defined hu
  · exact h.blocksStage_defined hu
  · exact h.asmEncode_defined a l hu

/-! ## A command that is defined answers -/

theorem commit_answers {e : Effect} (h : ∀ why, e ≠ .undefined why) : ∃ t, commit s e = .next t := by
  cases e with
  | done t => exact ⟨t, rfl⟩
  | raise c info => exact ⟨_, rfl⟩
  | undefined why => exact absurd rfl (h why)

theorem gated_answers {e : Effect} (h : ∀ why, e ≠ .undefined why) : ∃ t, gated s e = .next t := by
  cases hf : s.fault with
  | false => rw [gated_of_ok hf]; exact commit_answers h
  | true => exact ⟨s, gated_of_fault hf e⟩

theorem ungated_answers {e : Effect} (h : ∀ why, e ≠ .undefined why) : ∃ t, ungated s e = .next t := by
  cases hf : s.fault with
  | false => rw [ungated_of_ok hf]; exact commit_answers h
  | true =>
    cases e with
    | done t => exact ⟨t, ungated_done s t⟩
    | raise c info => exact ⟨s, ungated_raise_of_fault hf c info⟩
    | undefined why => exact absurd rfl (h why)

theorem illegalWord_answers (op : Byte) (s : State) : ∃ t, illegalWord op s = .next t := gated_answers nofun

theorem State.Inv.exec_answers (h : s.Inv) (i : Instr) : ∃ t, exec i s = .next t := by
  rw [exec_eq]
  split
  · exact ungated_answers fun _ => h.effectOf_defined i
  · exact gated_answers fun _ => h.effectOf_defined i

/-! ## The step, by the host's next input -/

theorem step_of_silent_host (hcfg : s.cfg.wf = true) (hin : s.inbox = []) : step s = .next s := by
  simp [step, takeInput, hcfg, hin]

theorem step_of_resetInput {rest : List HostInput} (hcfg : s.cfg.wf = true) (hin : s.inbox = .resetInput :: rest) :
    step s = .next (applyReset { s with inbox := rest }) := by
  simp [step, takeInput, hcfg, hin]

theorem step_of_illegal {w : Command} {rest : List HostInput} {reason : Illegal} (hcfg : s.cfg.wf = true)
    (hin : s.inbox = .word w :: rest) (hw : decode w = .illegal reason) :
    step s = illegalWord (opField w) { s with inbox := rest } := by
  simp [step, takeInput, hcfg, hin, hw]

theorem step_of_command {w : Command} {rest : List HostInput} (hcfg : s.cfg.wf = true)
    (hin : s.inbox = .word w :: rest) (hw : decode w = .command i) : step s = exec i { s with inbox := rest } := by
  simp [step, takeInput, hcfg, hin, hw]

theorem State.Inv.step_answers (h : s.Inv) : ∃ t, step s = .next t := by
  match hin : s.inbox with
  | [] => exact ⟨s, step_of_silent_host h.config hin⟩
  | .resetInput :: rest => exact ⟨_, step_of_resetInput h.config hin⟩
  | .word w :: rest =>
    match hw : decode w with
    | .illegal reason => rw [step_of_illegal h.config hin hw]; exact illegalWord_answers _ _
    | .command i => rw [step_of_command h.config hin hw]; exact (h.withInbox rest).exec_answers i

theorem Runs.keeps_inv {t : State} (hrun : Runs s t) (h : s.Inv) : t.Inv := by
  induction hrun with
  | refl => exact h
  | tail _ hstep ih => exact stepKeepsTheInvariant _ _ ih hstep

end

/-- Settles O15: a run keeps the invariant, by induction on its steps, and from a state of the invariant the step answers. -/
theorem noRunStops : Obligations.NoRunStops := by
  intro s t hs hrun
  have ht : t.Inv := hrun.keeps_inv hs
  exact ⟨ht, ht.step_answers⟩

end Sys2Proof.Machine
end

section
/-! PROOFS (20_memory.md R50, R51; 10_state.md R31). The buffers each command leaves (O18). -/

open Sys2Proof.Spec

namespace Sys2Proof.Machine

/-! ## The writes of the assembler's stages, buffer by buffer -/

theorem selected_mem (s : State) (m : Mode) (l : Byte) (v : Nat) :
    (selected s m l v).mem = ((s.mem.put .data []).put .ecall []).put .final [] := rfl

theorem assembled_mem (s : State) (p : Profile) (bits : List Bool) :
    (assembled s p bits).mem = ((s.mem.put .data (finalize bits)).put .ecall []).put .final [] := rfl

theorem blocked_mem (s : State) (p : Profile) :
    (blocked s p).mem = (s.mem.put .ecall (ecOf p s.mem.data).flatten).put .final
      (interleave (splitBlocks p s.mem.data) ++ interleave (ecOf p s.mem.data)) := rfl

/-! ## The sets of R50 -/

section
variable {i : Instr} {s t : State} {b : BufId}

/-- The one buffer that BUF_CLEAR and BUF_PUSH on id c write (R74) is the one their common set names. -/
theorem ofWritableCode?_mem_buffersWritten {c : Byte} {buf : BufId} (h : BufId.ofWritableCode? c.toNat = some buf) :
    buf ∈ buffersWritten (.bufClear c) := by
  rcases BufId.ofWritableCode?_cases h with ⟨rfl, rfl⟩ | ⟨rfl, rfl⟩ <;> decide

/-- A command that leaves the view BSBYTES does not write BS (R31). -/
theorem writesStream_eq_false_of_bsbytes (h : BufId.bsbytes ∉ buffersWritten i) : writesStream i = false := by
  cases i with
  | bsClear | bsWrite | segWrite | asmData | asmEncode => simp [buffersWritten] at h
  | _ => rfl

/-! ## What a completed command leaves -/

theorem Writes.get_eq (h : Writes s i t) (hi : i ≠ .reset) (hb : b ∉ buffersWritten i) :
    t.mem.get b = s.mem.get b := by
  cases h with
  | reset => exact absurd rfl hi
  | nop | read | bsClear | bsWrite | segWrite | rdInit | rdBit => simp
  | bufClear hbuf | bufPush _ hbuf _ =>
    have hne : b ≠ _ := fun he => hb (he ▸ ofWritableCode?_mem_buffersWritten hbuf)
    simp [hne]
  | rsGen | rsEnc | rsSynd =>
    simp only [buffersWritten, List.mem_singleton] at hb
    simp [hb]
  | asmSelect | asmData | asmBlocks | asmEncode =>
    simp only [buffersWritten, List.mem_cons, List.not_mem_nil, or_false, not_or] at hb
    simp [selected_mem, assembled_mem, blocked_mem, hb]

theorem Writes.bufBytes_eq (h : Writes s i t) (hi : i ≠ .reset) (hb : b ∉ buffersWritten i) :
    t.bufBytes b = s.bufBytes b := by
  by_cases hview : b = .bsbytes
  · subst hview
    obtain ⟨_, hbs⟩ := h.stream_eq hi (writesStream_eq_false_of_bsbytes hb)
    simp [hbs]
  · rw [State.bufBytes_eq_get t hview, State.bufBytes_eq_get s hview, h.get_eq hi hb]

theorem exec_keeps_bufBytes (h : exec i s = .next t) (hi : i ≠ .reset) (hb : b ∉ buffersWritten i) :
    t.bufBytes b = s.bufBytes b := by
  rcases exec_next_writes h with ⟨_, hw⟩ | ⟨_, c, info, _, rfl⟩ | ⟨_, rfl⟩
  · exact hw.bufBytes_eq hi hb
  · exact State.bufBytes_congr rfl rfl
  · rfl

end

/-- Settles O18: a buffer outside a command's set holds the same sequence after it, so every byte and the length are as
before. -/
theorem buffersAreWrittenByTheirCommands : Obligations.BuffersAreWrittenByTheirCommands := by
  refine ⟨fun s => ⟨rfl, fun _ _ => rfl⟩, fun i s t b h hi hb => ?_⟩
  have hsame : t.bufBytes b = s.bufBytes b := exec_keeps_bufBytes h hi hb
  exact ⟨fun j => by unfold State.readByte; rw [hsame], by rw [hsame]⟩

end Sys2Proof.Machine
end

section
/-! PROOFS (30_encoding.md R71, R72, R75, R78). A word as its fields, the opcode map format by format, and decode and encode
as inverses of each other (O1, O2, O3). -/

open Sys2Proof.Spec

namespace Sys2Proof

/-! ## A word and its fields (R71) -/

theorem wordOf_fields (w : Command) : wordOf (opField w) (aField w) (bField w) (cField w) (immField w) = w := by
  refine BitVec.eq_of_getLsbD_eq fun i hi => ?_
  rw [getLsbD_wordOf]
  -- Bit i of the word is bit i - k of the field that starts at bit k.
  split_ifs <;> simp only [opField, aField, bField, cField, immField, BitVec.getLsbD_extractLsb'] <;> grind

theorem eq_iff_fields {w v : Command} :
    w = v ↔ opField w = opField v ∧ aField w = aField v ∧ bField w = bField v ∧ cField w = cField v ∧
      immField w = immField v := by
  constructor
  · rintro rfl; simp
  · rintro ⟨hop, ha, hb, hc, himm⟩
    rw [← wordOf_fields w, ← wordOf_fields v, hop, ha, hb, hc, himm]

/-! ## The opcode map, format by format (R72, R75) -/

/-- The word of a command of this format, from OP and the fields the format has (R72). -/
def Format.encode (fmt : Format) (op a b : Byte) (imm : Word) : Command :=
  match fmt with
  | .N => encodeN op
  | .A => encodeA op a
  | .AB => encodeAB op a b
  | .AI => encodeAI op a imm

/-- Where the reserved fields are 0, the other fields are the whole word. -/
theorem Format.encode_fields {fmt : Format} {w : Command} (h : fmt.reservedClear w = true) :
    fmt.encode (opField w) (aField w) (bField w) (immField w) = w := by
  rw [eq_iff_fields]
  cases fmt <;> simp_all [Format.reservedClear, Format.encode, encodeN, encodeA, encodeAB, encodeAI]

/-- The two maps of R75 agree: an OP value with a format has a command, and the encoder puts that command's operands back
into the fields of the format. -/
theorem opCommand_of_opFormat {op : Byte} {fmt : Format} (h : opFormat op = some fmt) (a b : Byte) (imm : Word) :
    ∃ i, opCommand op a b imm = some i ∧ encode i = fmt.encode op a b imm := by
  unfold opFormat at h
  split at h
  case h_31 => cases h
  all_goals
    next hop =>
      obtain ⟨_, rfl⟩ := BitVec.toNat_eq_nat.mp hop
      cases h
      exact ⟨_, rfl, rfl⟩

/-- Reading the fields of an encoded command by the map of R75 gives the command back. -/
theorem opCommand_encode (i : Instr) :
    opCommand (opField (encode i)) (aField (encode i)) (bField (encode i)) (immField (encode i)) = some i := by
  cases i <;> simp [encode, encodeN, encodeA, encodeAB, encodeAI, opCommand]

open Laws.EncodedFields in
/-- The law of the encoded fields, of every command. -/
theorem encodedFields : ∀ i : Instr, Statement i
  | .nop => nop
  | .reset => reset
  | .regRead n => regRead n
  | .bufClear b => bufClear b
  | .bufPush b v => bufPush b v
  | .bufRead b i => bufRead b i
  | .bufLen b => bufLen b
  | .bsClear => bsClear
  | .bsWrite n value => bsWrite n value
  | .bsTotal => bsTotal
  | .bsFinalize => bsFinalize
  | .rdInit b => rdInit b
  | .rdHas => rdHas
  | .rdBit => rdBit
  | .gfAdd a b => gfAdd a b
  | .gfMul a b => gfMul a b
  | .gfDiv a b => gfDiv a b
  | .gfExp i => gfExp i
  | .gfLog a => gfLog a
  | .rsGen r => rsGen r
  | .rsEnc r => rsEnc r
  | .rsSynd r => rsSynd r
  | .segCheck m => segCheck m
  | .segCount m => segCount m
  | .segWrite m => segWrite m
  | .segAuto => segAuto
  | .asmSelect a l => asmSelect a l
  | .asmData => asmData
  | .asmBlocks => asmBlocks
  | .asmEncode a l => asmEncode a l

/-! ## Legal words (R76, R78) -/

theorem decode_eq_command_iff {w : Command} {i : Instr} :
    decode w = .command i ↔ ∃ fmt, opFormat (opField w) = some fmt ∧ fmt.reservedClear w = true ∧
      opCommand (opField w) (aField w) (bField w) (immField w) = some i := by
  unfold decode
  cases hop : opFormat (opField w) with
  | none => simp
  | some fmt =>
    obtain ⟨j, hj, _⟩ := opCommand_of_opFormat hop (aField w) (bField w) (immField w)
    by_cases hclear : fmt.reservedClear w = true <;> simp [hclear, hj]

/-- Whether a word is legal depends on its OP and its reserved fields alone. -/
theorem exists_decode_eq_command_iff {w : Command} :
    (∃ i, decode w = .command i) ↔ ∃ fmt, opFormat (opField w) = some fmt ∧ fmt.reservedClear w = true := by
  simp only [decode_eq_command_iff]
  constructor
  · rintro ⟨_, fmt, hop, hclear, _⟩
    exact ⟨fmt, hop, hclear⟩
  · rintro ⟨fmt, hop, hclear⟩
    obtain ⟨i, hi, _⟩ := opCommand_of_opFormat hop (aField w) (bField w) (immField w)
    exact ⟨i, fmt, hop, hclear, hi⟩

/-! ## The statements -/

/-- Settles O2: an encoded word has its command's OP and clear reserved fields, and its fields read back as the operands. -/
theorem decodeOfEncode : Obligations.DecodeOfEncode := by
  intro i
  obtain ⟨fmt, hop, hclear, _⟩ := encodedFields i
  exact decode_eq_command_iff.mpr ⟨fmt, hop, hclear, opCommand_encode i⟩

/-- Settles O3: the decoded command encodes to the word of its format from the fields of w, which is w itself where the
reserved fields are 0. -/
theorem encodeOfDecode : Obligations.EncodeOfDecode := by
  intro w i h
  obtain ⟨fmt, hop, hclear, hi⟩ := decode_eq_command_iff.mp h
  obtain ⟨j, hj, henc⟩ := opCommand_of_opFormat hop (aField w) (bField w) (immField w)
  obtain rfl : j = i := Option.some.inj (hj.symm.trans hi)
  exact henc.trans (Format.encode_fields hclear)

/-- Settles O1, by running the decoder on the thirty-three words. -/
theorem writtenWordsDecode : Obligations.WrittenWordsDecode := by
  unfold Obligations.WrittenWordsDecode
  exact ⟨by decide, by decide, by decide, by decide⟩

end Sys2Proof
end

section
/-! PROOFS (30_encoding.md R72, R75, R76; 60_exceptions.md R403). The rows of the opcode table as match and mask of each
assigned OP value, and the step on a word outside them (O4). -/

open Sys2Proof.Spec

namespace Sys2Proof

/-! ## Masks (R72) -/

@[simp] theorem opField_and (w v : Command) : opField (w &&& v) = opField w &&& opField v := BitVec.extractLsb'_and
@[simp] theorem aField_and (w v : Command) : aField (w &&& v) = aField w &&& aField v := BitVec.extractLsb'_and
@[simp] theorem bField_and (w v : Command) : bField (w &&& v) = bField w &&& bField v := BitVec.extractLsb'_and
@[simp] theorem cField_and (w v : Command) : cField (w &&& v) = cField w &&& cField v := BitVec.extractLsb'_and
@[simp] theorem immField_and (w v : Command) : immField (w &&& v) = immField w &&& immField v := BitVec.extractLsb'_and

/-- The bits of a word that its format fixes: OP and the reserved fields (R72). -/
def Format.mask (fmt : Format) : Command :=
  match fmt with
  | .N => wordOf (.allOnes 8) (.allOnes 8) (.allOnes 8) (.allOnes 8) (.allOnes 32)
  | .A => wordOf (.allOnes 8) 0 (.allOnes 8) (.allOnes 8) (.allOnes 32)
  | .AB => wordOf (.allOnes 8) 0 0 (.allOnes 8) (.allOnes 32)
  | .AI => wordOf (.allOnes 8) 0 (.allOnes 8) (.allOnes 8) 0

theorem Format.and_mask_eq_iff {fmt : Format} {w : Command} {op : Byte} :
    w &&& fmt.mask = encodeN op ↔ opField w = op ∧ fmt.reservedClear w = true := by
  rw [eq_iff_fields]
  -- `allOnes` stays unevaluated, so that `and_allOnes` applies.
  cases fmt <;> simp [Format.mask, encodeN, Format.reservedClear, -BitVec.reduceAllOnes] <;> tauto

/-! ## The rows of the table (R75) -/

/-- The assigned OP values with their formats, in the order of their values. -/
def opMap : List (Byte × Format) :=
  (List.range 256).filterMap fun n => (opFormat (BitVec.ofNat 8 n)).map fun fmt => (BitVec.ofNat 8 n, fmt)

theorem mem_opMap {op : Byte} {fmt : Format} : (op, fmt) ∈ opMap ↔ opFormat op = some fmt := by
  simp only [opMap, List.mem_filterMap, List.mem_range, Option.map_eq_some_iff, Prod.mk.injEq]
  constructor
  · rintro ⟨n, _, f, hf, rfl, rfl⟩
    exact hf
  · intro h
    exact ⟨op.toNat, op.isLt, fmt, by simpa using h, by simp, rfl⟩

theorem opcodeRows_eq : opcodeRows = opMap.map fun entry => (encodeN entry.1, entry.2.mask) := by decide

theorem exists_opcodeRow_iff {w : Command} :
    (∃ row ∈ opcodeRows, w &&& row.2 = row.1) ↔
      ∃ fmt, opFormat (opField w) = some fmt ∧ fmt.reservedClear w = true := by
  rw [opcodeRows_eq]
  constructor
  · rintro ⟨row, hrow, hw⟩
    obtain ⟨⟨op, fmt⟩, hentry, rfl⟩ := List.mem_map.mp hrow
    obtain ⟨rfl, hclear⟩ := Format.and_mask_eq_iff.mp hw
    exact ⟨fmt, mem_opMap.mp hentry, hclear⟩
  · rintro ⟨fmt, hop, hclear⟩
    exact ⟨_, List.mem_map_of_mem (mem_opMap.mpr hop), Format.and_mask_eq_iff.mpr ⟨rfl, hclear⟩⟩

end Sys2Proof

namespace Sys2Proof.Machine

theorem illegalWord_eq (op : Byte) (s : State) :
    illegalWord op s = .next (if s.fault then s else recordFault .illegalCommand (zextByte op) s) := by
  unfold illegalWord
  cases hf : s.fault
  · simp [gated_of_ok hf]
  · simp [gated_of_fault hf]

/-- Settles O4: to decode and to match a row both say that OP has a format and the reserved fields are 0. -/
theorem illegalWordsAreThoseOutsideTheTable : Obligations.IllegalWordsAreThoseOutsideTheTable := by
  refine ⟨fun w => exists_decode_eq_command_iff.trans exists_opcodeRow_iff.symm, by decide +kernel,
    fun s w rest why hcfg hin hw => ?_⟩
  rw [step_of_illegal hcfg hin hw, illegalWord_eq]
  rfl

end Sys2Proof.Machine
end

section
/-! PROOFS (30_encoding.md R74; 60_exceptions.md R400-R402). The fault of an operand outside its range (O11). -/

open Sys2Proof.Spec

/-! ## The operand codes and their ranges (R74)

A code names something exactly when it is in its range. The codes of one byte are compared over its 256 values. -/

namespace Sys2Proof

theorem Mode.ofCode?_eq_none_iff (m : Byte) : Mode.ofCode? m.toNat = none ↔ Operand.modeCode m = false := by
  revert m; decide

theorem Operand.modeCodeOrAuto_iff (a : Byte) : Operand.modeCodeOrAuto a = true ↔ a.toNat ≤ 2 ∨ a = 0xFF := by
  revert a; decide

end Sys2Proof

namespace Sys2Proof.Machine

theorem State.readReg_eq_none_iff (s : State) (n : Byte) : s.readReg n.toNat = none ↔ Operand.registerId n = false := by
  unfold State.readReg Operand.registerId
  split <;> grind

theorem BufId.ofCode?_eq_none_iff (b : Byte) : BufId.ofCode? b.toNat = none ↔ Operand.bufferId b = false := by
  revert b; decide

theorem BufId.ofWritableCode?_eq_none_iff (b : Byte) :
    BufId.ofWritableCode? b.toNat = none ↔ Operand.writableBufferId b = false := by
  revert b; decide

theorem ModeChoice.ofCode?_eq_none_iff (a : Byte) :
    ModeChoice.ofCode? a.toNat = none ↔ Operand.modeCodeOrAuto a = false := by
  revert a; decide

theorem levelOk_eq (l : Byte) : levelOk l.toNat = Operand.levelCode l := by
  revert l; decide

section
variable {i : Instr} {s t : State}

/-! ## An illegal operand -/

/-- The mode field is checked before the level field (R405). -/
theorem selectStage_of_illegal {a l : Byte} (h : (Operand.modeCodeOrAuto a && Operand.levelCode l) = false) :
    selectStage a l s =
      .raise .invalidConfiguration (if a.toNat ≤ 2 ∨ a = 0xFF then zextByte l else zextByte a) := by
  simp only [← Operand.modeCodeOrAuto_iff]
  cases ha : Operand.modeCodeOrAuto a with
  | false => simp [selectStage, (ModeChoice.ofCode?_eq_none_iff a).mpr ha]
  | true =>
    have hl : levelOk l.toNat = false := by rw [levelOk_eq]; simpa [ha] using h
    have hchoice : ModeChoice.ofCode? a.toNat ≠ none := by simp [ModeChoice.ofCode?_eq_none_iff, ha]
    obtain ⟨choice, hchoice⟩ := Option.ne_none_iff_exists'.mp hchoice
    simp [selectStage, hchoice, hl]

/-- A command with an operand outside its range raises the fault of its row, whatever else holds (R74, R401). -/
theorem effectOf_of_illegal_operand (h : i.wellFormed s.cfg = false) :
    ∃ c : FaultCode, effectOf i s = .raise c (operandFault i).2 ∧ c.code = (operandFault i).1 := by
  cases i with
  | regRead n =>
    have hn := (s.readReg_eq_none_iff n).mpr h
    exact ⟨.illegalCommand, by simp [effectOf, regReadEffect, hn, operandFault], rfl⟩
  | bufClear b | bufPush b v =>
    have hb := (BufId.ofWritableCode?_eq_none_iff b).mpr h
    exact ⟨.illegalCommand, by simp [effectOf, bufClearEffect, bufPushEffect, hb, operandFault], rfl⟩
  | bufRead b j | bufLen b | rdInit b =>
    have hb := (BufId.ofCode?_eq_none_iff b).mpr h
    exact ⟨.illegalCommand, by simp [effectOf, bufReadEffect, bufLenEffect, rdInitEffect, hb, operandFault], rfl⟩
  | bsWrite n value =>
    have hn : bitCountOk n.toNat = false := h
    exact ⟨.illegalCommand, by simp [effectOf, bsWriteEffect, hn, operandFault], rfl⟩
  | rsGen r | rsEnc r | rsSynd r =>
    have hr : degreeOk s.cfg r.toNat = false := h
    exact ⟨.illegalCommand, by simp [effectOf, rsGenEffect, rsEncEffect, rsSyndEffect, hr, operandFault], rfl⟩
  | segCheck m | segCount m | segWrite m =>
    have hm := (Mode.ofCode?_eq_none_iff m).mpr h
    exact ⟨.invalidConfiguration,
      by simp [effectOf, segCheckEffect, segCountEffect, segWriteEffect, hm, operandFault], rfl⟩
  | asmSelect a l => exact ⟨.invalidConfiguration, selectStage_of_illegal h, rfl⟩
  | asmEncode a l =>
    refine ⟨.invalidConfiguration, ?_, rfl⟩
    simp [effectOf, selectStage_of_illegal h, operandFault]
  | nop | reset | bsClear | bsTotal | bsFinalize | rdHas | rdBit | gfAdd | gfMul | gfDiv | gfExp | gfLog | segAuto
  | asmData | asmBlocks => cases h

/-! ## A fault of the kinds that R74 gives to operands -/

theorem illegal_of_selectStage_raise {a l : Byte} {c : FaultCode} {info : Word} (h : selectStage a l s = .raise c info)
    (hc : c.code = 6 ∨ c.code = 5) : (Operand.modeCodeOrAuto a && Operand.levelCode l) = false := by
  rcases selectStage_raise_cases h with ⟨hn, _⟩ | ⟨_, _, ⟨hl, _⟩ | ⟨_, rfl | rfl⟩⟩
  · simp [(ModeChoice.ofCode?_eq_none_iff a).mp hn]
  · simp [← levelOk_eq, hl]
  · exact absurd hc (by decide)
  · exact absurd hc (by decide)

/-- Only an operand outside its range makes a command raise IllegalCommand (6) or InvalidConfiguration (5). -/
theorem illegal_operand_of_raise {c : FaultCode} {info : Word} (h : effectOf i s = .raise c info)
    (hc : c.code = 6 ∨ c.code = 5) : i.wellFormed s.cfg = false := by
  cases i with
  | regRead n => exact (s.readReg_eq_none_iff n).mp (regReadEffect_raise_cases h).1
  | bufClear b => exact (BufId.ofWritableCode?_eq_none_iff b).mp (bufClearEffect_raise_cases h).1
  | bufPush b v =>
    rcases bufPushEffect_raise_cases h with ⟨hb, _⟩ | ⟨_, _, _, rfl, _⟩
    · exact (BufId.ofWritableCode?_eq_none_iff b).mp hb
    · exact absurd hc (by decide)
  | bufRead b j =>
    rcases bufReadEffect_raise_cases h with ⟨hb, _⟩ | ⟨_, _, _, rfl, _⟩
    · exact (BufId.ofCode?_eq_none_iff b).mp hb
    · exact absurd hc (by decide)
  | bufLen b => exact (BufId.ofCode?_eq_none_iff b).mp (bufLenEffect_raise_cases h).1
  | rdInit b => exact (BufId.ofCode?_eq_none_iff b).mp (rdInitEffect_raise_cases h).1
  | bsWrite n value =>
    rcases bsWriteEffect_raise_cases h with ⟨hn, _⟩ | ⟨_, rfl, _⟩
    · exact decide_eq_false (by omega)
    · exact absurd hc (by decide)
  | rsGen r => exact (rsGenEffect_raise_cases h).1
  | rsEnc r => exact (rsEncEffect_raise_cases h).1
  | rsSynd r => exact (rsSyndEffect_raise_cases h).1
  | segCheck m => exact (Mode.ofCode?_eq_none_iff m).mp (segCheckEffect_raise_cases h).1
  | segCount m => exact (Mode.ofCode?_eq_none_iff m).mp (segCountEffect_raise_cases h).1
  | segWrite m =>
    rcases segWriteEffect_raise_cases h with ⟨hm, _⟩ | ⟨_, _, ⟨_, _, rfl, _⟩ | ⟨_, rfl, _⟩⟩
    · exact (Mode.ofCode?_eq_none_iff m).mp hm
    · exact absurd hc (by decide)
    · exact absurd hc (by decide)
  | asmSelect a l => exact illegal_of_selectStage_raise h hc
  | asmEncode a l =>
    rcases Effect.andThen_raise_cases h with h | ⟨_, _, h⟩
    · rcases Effect.andThen_raise_cases h with h | ⟨_, _, h⟩
      · exact illegal_of_selectStage_raise h hc
      · rcases dataStage_raise_cases h with ⟨_, rfl, _⟩ | ⟨_, rfl, _⟩ <;> exact absurd hc (by decide)
    · obtain ⟨_, rfl, _⟩ := blocksStage_raise_cases h; exact absurd hc (by decide)
  | rdBit => obtain ⟨_, _, _, rfl, _⟩ := rdBitEffect_raise_cases h; exact absurd hc (by decide)
  | gfDiv a b => obtain ⟨_, rfl, _⟩ := gfDivEffect_raise_cases h; exact absurd hc (by decide)
  | gfLog a => obtain ⟨_, rfl, _⟩ := gfLogEffect_raise_cases h; exact absurd hc (by decide)
  | asmData => rcases dataStage_raise_cases h with ⟨_, rfl, _⟩ | ⟨_, rfl, _⟩ <;> exact absurd hc (by decide)
  | asmBlocks => obtain ⟨_, rfl, _⟩ := blocksStage_raise_cases h; exact absurd hc (by decide)
  | nop | reset | bsClear | bsTotal | bsFinalize | rdHas | gfAdd | gfMul | gfExp | segAuto => simp [effectOf] at h

/-- A command that completes records no fault. -/
theorem Writes.fault_eq_false (h : Writes s i t) (hs : s.fault = false) : t.fault = false := by
  by_cases hi : i = .reset
  · subst hi; simp [h.eq_applyReset]
  · exact (h.faultRecord_eq hi).1.trans hs

/-- A command that ends with FAULT = 1 from FAULT = 0 has raised the fault it records. -/
theorem exec_raises_of_fault (hs : s.fault = false) (h : exec i s = .next t) (ht : t.fault = true) :
    ∃ c info, effectOf i s = .raise c info ∧ t = recordFault c info s := by
  rcases exec_next_cases h with ⟨_, hdone⟩ | ⟨_, hraise⟩ | ⟨hf, _⟩
  · simp [(writes_of_effectOf_done hdone).fault_eq_false hs] at ht
  · exact hraise
  · simp [hs] at hf

end

/-! ## The statement -/

/-- Settles O11: an illegal operand decides the effect, and an effect of either kind shows an illegal operand. -/
theorem illegalOperandsRaiseTheirFault : Obligations.IllegalOperandsRaiseTheirFault := by
  refine ⟨fun i s hs hi => ?_, fun i s t hs hi h ht => ?_⟩
  · obtain ⟨c, hraise, hcode⟩ := effectOf_of_illegal_operand hi
    rw [exec_of_ok hs, hraise, ← hcode]
    rfl
  · obtain ⟨c, info, hraise, rfl⟩ := exec_raises_of_fault hs h ht
    rw [← not_or]
    intro hc
    simp [illegal_operand_of_raise hraise hc] at hi

end Sys2Proof.Machine
end

section
/-! PROOFS (40_host_access.md R100-R106). The host access commands: what an id names, and the next state of each
command where its checks pass and where they fail (O21 to O25). -/

open Sys2Proof.Spec

namespace Sys2Proof.Machine

/-! ## Ids as positions (R20, R50) -/

theorem State.readReg_eq_registerFile (s : State) : ∀ n, s.readReg n = (registerFile s)[n]?
  | 0 | 1 | 2 | 3 | 4 | 5 | 6 | 7 | 8 | 9 | 10 | 11 | 12 | 13 | 14 => rfl
  | _ + 15 => rfl

/-- A buffer id names the buffer at its place in the list of R50. -/
theorem bufferFile_getElem?_eq (s : State) : ∀ n, (bufferFile s)[n]? = (BufId.ofCode? n).map s.bufBytes
  | 0 | 1 | 2 | 3 | 4 | 5 | 6 | 7 | 8 => rfl
  | _ + 9 => rfl

theorem exists_bufId_of_bufferFile {s : State} {n : Nat} {bytes : List Byte} (h : (bufferFile s)[n]? = some bytes) :
    ∃ buf, BufId.ofCode? n = some buf ∧ s.bufBytes buf = bytes := by
  simpa [bufferFile_getElem?_eq] using h

theorem BufId.ofCode?_eq_bsbytes_iff (b : Byte) : BufId.ofCode? b.toNat = some .bsbytes ↔ b = 5 := by
  revert b; decide

/-- BSBYTES alone takes its length from BS_LEN (R106). -/
theorem State.bufLen_eq_length (s : State) {b : BufId} (h : b ≠ .bsbytes) : s.bufLen b = (s.bufBytes b).length := by
  cases b with
  | bsbytes => exact absurd rfl h
  | _ => rfl

section
variable {i : Instr} {s t : State} {b : Byte} {buf : BufId}

/-! ## The outcome of a command from its effect (R402, R403) -/

theorem exec_of_done (hs : s.fault = false) (h : effectOf i s = .done t) : exec i s = .next t := by
  rw [exec_of_ok hs, h, commit_done]

theorem exec_of_raise {c : FaultCode} {info : Word} (hs : s.fault = false) (h : effectOf i s = .raise c info) :
    exec i s = .next (recordFault c info s) := by
  rw [exec_of_ok hs, h, commit_raise]

theorem exec_of_done_of_runsInFaultState (hi : runsInFaultState i = true) (h : effectOf i s = .done t) :
    exec i s = .next t := by
  rw [exec_eq, if_pos hi, h, ungated_done]

theorem exec_of_illegal_operand (hs : s.fault = false) (h : i.wellFormed s.cfg = false) :
    exec i s = .next (faulted s (operandFault i).1 (operandFault i).2) :=
  illegalOperandsRaiseTheirFault.1 i s hs h

/-- While FAULT = 1 a command with an illegal operand is discarded, REG_READ too (R403). -/
theorem exec_of_illegal_operand_of_fault (hf : s.fault = true) (h : i.wellFormed s.cfg = false) : exec i s = .next s := by
  obtain ⟨c, hraise, _⟩ := effectOf_of_illegal_operand h
  rw [exec_eq, hraise]
  split
  · exact ungated_raise_of_fault hf _ _
  · exact gated_of_fault hf _

/-! ## The outcome of each command, check by check -/

theorem exec_regRead_of_registerFile {n : Byte} {v : Word} (h : (registerFile s)[n.toNat]? = some v) :
    exec (.regRead n) s = .next (s.setRes v) :=
  exec_of_done_of_runsInFaultState rfl (by simp [effectOf, regReadEffect, State.readReg_eq_registerFile, h])

theorem exec_bufClear_of_some (hs : s.fault = false) (hb : BufId.ofWritableCode? b.toNat = some buf) :
    exec (.bufClear b) s = .next ((s.setBuf buf []).inputChanged buf) :=
  exec_of_done hs (by simp [effectOf, bufClearEffect, hb])

theorem exec_bufPush_of_room (hs : s.fault = false) (hb : BufId.ofWritableCode? b.toNat = some buf)
    (hroom : (s.mem.get buf).length ≠ bufCapacity s.cfg buf) (v : Byte) :
    exec (.bufPush b v) s = .next ((s.setBuf buf (s.mem.get buf ++ [v])).inputChanged buf) :=
  exec_of_done hs (by simp [effectOf, bufPushEffect, hb, hroom])

theorem exec_bufPush_of_full (hs : s.fault = false) (hb : BufId.ofWritableCode? b.toNat = some buf)
    (hfull : (s.mem.get buf).length = bufCapacity s.cfg buf) (v : Byte) :
    exec (.bufPush b v) s = .next (recordFault .bufferOverflow (zextByte b) s) :=
  exec_of_raise hs (by simp [effectOf, bufPushEffect, hb, hfull])

theorem exec_bufRead_of_some {j : Word} {v : Byte} (hs : s.fault = false) (hb : BufId.ofCode? b.toNat = some buf)
    (hv : (s.bufBytes buf)[j.toNat]? = some v) : exec (.bufRead b j) s = .next (s.setRes (zextByte v)) :=
  exec_of_done hs (by simp [effectOf, bufReadEffect, State.readByte, hb, hv])

theorem exec_bufRead_of_length_le {j : Word} (hs : s.fault = false) (hb : BufId.ofCode? b.toNat = some buf)
    (hlen : (s.bufBytes buf).length ≤ j.toNat) :
    exec (.bufRead b j) s = .next (recordFault .indexOutOfRange (zextByte b) s) :=
  exec_of_raise hs (by simp [effectOf, bufReadEffect, State.readByte, hb, hlen])

theorem exec_bufLen_of_some (hs : s.fault = false) (hb : BufId.ofCode? b.toNat = some buf) :
    exec (.bufLen b) s = .next (s.setResNat (s.bufLen buf)) :=
  exec_of_done hs (by simp [effectOf, bufLenEffect, hb])

end

/-! ## The statements -/

/-- Settles O21: NOP runs whatever FAULT is, and its effect is the state it began in. -/
theorem nopChangesNothing : Obligations.NopChangesNothing :=
  ⟨fun _ => exec_of_done_of_runsInFaultState rfl rfl, by decide⟩

/-- Settles O22: REG_READ runs whatever FAULT is, and the fifteen ids are the places of the register file. -/
theorem regReadGivesTheRegister : Obligations.RegReadGivesTheRegister := by
  intro n s
  have hillegal (hn : 15 ≤ n.toNat) : (Instr.regRead n).wellFormed s.cfg = false := decide_eq_false (by omega)
  refine ⟨fun _ => exec_regRead_of_registerFile, fun hn => ?_, fun hn hs => exec_of_illegal_operand hs (hillegal hn),
    fun hn hf => exec_of_illegal_operand_of_fault hf (hillegal hn)⟩
  have hlt : n.toNat < (registerFile s).length := Nat.lt_succ_of_le hn
  exact ⟨_, exec_regRead_of_registerFile (List.getElem?_eq_getElem hlt)⟩

/-- Settles O23: ids 0 and 1 name INBUF and RSIN, where the full test alone decides a push; any other id is illegal. -/
theorem hostBuffersClearAndAppend : Obligations.HostBuffersClearAndAppend := by
  intro s v hs
  have hillegal {b : Byte} (hb : 2 ≤ b.toNat) : Operand.writableBufferId b = false := decide_eq_false (by omega)
  exact ⟨exec_bufClear_of_some (buf := .inbuf) hs rfl,
    exec_bufClear_of_some (buf := .rsin) hs rfl,
    fun _ hb => exec_of_illegal_operand hs (hillegal hb),
    fun hroom => exec_bufPush_of_room (buf := .inbuf) hs rfl hroom v,
    fun hfull => exec_bufPush_of_full (buf := .inbuf) hs rfl hfull v,
    fun hroom => exec_bufPush_of_room (buf := .rsin) hs rfl hroom v,
    fun hfull => exec_bufPush_of_full (buf := .rsin) hs rfl hfull v,
    fun _ hb => exec_of_illegal_operand hs (hillegal hb)⟩

/-- Settles O24: the id names a buffer, and the read of its byte succeeds exactly below the length. -/
theorem bufReadGivesTheByte : Obligations.BufReadGivesTheByte := by
  intro b j s hs
  refine ⟨fun bytes v hbytes hv => ?_, fun bytes hbytes hlen => ?_,
    fun hb => exec_of_illegal_operand hs (decide_eq_false (by omega))⟩
  · obtain ⟨buf, hbuf, rfl⟩ := exists_bufId_of_bufferFile hbytes
    exact exec_bufRead_of_some hs hbuf hv
  · obtain ⟨buf, hbuf, rfl⟩ := exists_bufId_of_bufferFile hbytes
    exact exec_bufRead_of_length_le hs hbuf hlen

/-- Settles O25: every buffer but BSBYTES, which id 5 alone names, has the length of its sequence. -/
theorem bufLenGivesTheLength : Obligations.BufLenGivesTheLength := by
  intro b s hs
  refine ⟨fun bytes hne hbytes => ?_, exec_bufLen_of_some (buf := .bsbytes) hs rfl,
    fun hb => exec_of_illegal_operand hs (decide_eq_false (by omega))⟩
  obtain ⟨buf, hbuf, rfl⟩ := exists_bufId_of_bufferFile hbytes
  have hview : buf ≠ .bsbytes := fun he => hne ((BufId.ofCode?_eq_bsbytes_iff b).mp (he ▸ hbuf))
  rw [← s.bufLen_eq_length hview]
  exact exec_bufLen_of_some hs hbuf

end Sys2Proof.Machine
end

section
/-! PROOFS (41_bitstream.md R130-R137). The bitstream commands: the next state of each where its checks pass and where they
fail (O26 to O29). -/

open Sys2Proof.Spec

namespace Sys2Proof

/-- `bitsOf` lists the n low bits from bit n - 1 down to bit 0 (R9). -/
theorem bitsOf_eq_map_getLsbD (value : Word) (n : Nat) :
    bitsOf value.toNat n = (List.range n).map fun k => value.getLsbD (n - 1 - k) := by
  induction n with
  | zero => rfl
  | succ n ih =>
    rw [bitsOf, ih, List.range_succ_eq_map, List.map_cons, List.map_map]
    congr 1
    exact List.map_congr_left fun k _ => by simp only [Function.comp_apply]; congr 1; omega

end Sys2Proof

namespace Sys2Proof.Machine

/-- RD_BIT's shift and mask read one bit of the byte (R136). -/
theorem bitOfByte_eq_flagWord (v : Byte) (bit : Nat) : bitOfByte v bit = flagWord (v.getLsbD (7 - bit)) := by
  have hlow : (zextByte (v >>> (7 - bit))).getLsbD 0 = v.getLsbD (7 - bit) := by simp; omega
  refine BitVec.and_one_eq_setWidth_ofBool_getLsbD.trans ?_
  rw [hlow]
  cases v.getLsbD (7 - bit) <;> rfl

theorem State.setRes_advanceReader (s : State) (v : Word) :
    (s.setRes v).advanceReader =
      { s with
        res := v
        rdBit := if s.rdBit = 7 then 0 else s.rdBit + 1
        rdByte := if s.rdBit = 7 then s.rdByte + 1 else s.rdByte } := by
  by_cases h : s.rdBit = 7 <;> simp only [State.advanceReader, State.setRes, h, if_true, if_false]

section
variable {s : State}

/-! ## The outcome of each command, check by check -/

theorem exec_bsClear (hs : s.fault = false) : exec .bsClear s = .next (s.setStream []) := exec_of_done hs rfl

theorem exec_bsTotal (hs : s.fault = false) : exec .bsTotal s = .next (s.setRes s.bsLen) := exec_of_done hs rfl

theorem effectOf_bsWrite_of_le {n : Byte} (hn : n.toNat ≤ 32) (value : Word) :
    effectOf (.bsWrite n value) s = appendBits s (bitsOf value.toNat n.toNat) :=
  if_pos (decide_eq_true hn)

theorem exec_bsWrite_of_room {n : Byte} (hs : s.fault = false) (hn : n.toNat ≤ 32)
    (hroom : s.bs.length + n.toNat ≤ s.cfg.bsMaxBits) (value : Word) :
    exec (.bsWrite n value) s = .next (s.setStream (s.bs ++ bitsOf value.toNat n.toNat)) :=
  exec_of_done hs (by rw [effectOf_bsWrite_of_le hn, appendBits_of_room (by simpa using hroom)])

theorem exec_bsWrite_of_full {n : Byte} (hs : s.fault = false) (hn : n.toNat ≤ 32)
    (hfull : s.cfg.bsMaxBits < s.bs.length + n.toNat) (value : Word) :
    exec (.bsWrite n value) s = .next (recordFault .bufferOverflow 5 s) :=
  exec_of_raise hs (by rw [effectOf_bsWrite_of_le hn, appendBits_of_full (by simpa using hfull)])

theorem exec_rdInit_of_some {b : Byte} {buf : BufId} (hs : s.fault = false) (hb : BufId.ofCode? b.toNat = some buf) :
    exec (.rdInit b) s =
      .next { s with rdSrc := zextByte b, rdByte := 0, rdBit := 0, rdLen := BitVec.ofNat 32 (s.bufLen buf) } :=
  exec_of_done hs (by simp [effectOf, rdInitEffect, hb])

theorem exec_rdBit_of_byte {src : BufId} {v : Byte} (hs : s.fault = false)
    (hsrc : BufId.ofCode? s.rdSrc.toNat = some src) (hlen : s.rdByte.toNat < s.rdLen.toNat)
    (hv : (s.bufBytes src)[s.rdByte.toNat]? = some v) (hbit : s.rdBit.toNat ≤ 7) :
    exec .rdBit s = .next (s.setRes (flagWord (v.getLsbD (7 - s.rdBit.toNat)))).advanceReader :=
  exec_of_done hs (by
    simp [effectOf, rdBitEffect, State.readByte, hsrc, hv, Nat.not_le.mpr hlen, Nat.not_lt.mpr hbit,
      bitOfByte_eq_flagWord])

/-- The sampled length and the present one both bound the cursor (R136, R463). -/
theorem exec_rdBit_of_end {src : BufId} (hs : s.fault = false) (hsrc : BufId.ofCode? s.rdSrc.toNat = some src)
    (hend : s.rdLen.toNat ≤ s.rdByte.toNat ∨ (s.bufBytes src).length ≤ s.rdByte.toNat) :
    exec .rdBit s = .next (recordFault .indexOutOfRange s.rdSrc s) := by
  refine exec_of_raise hs ?_
  by_cases hlen : s.rdLen.toNat ≤ s.rdByte.toNat
  · simp [effectOf, rdBitEffect, hsrc, hlen]
  · have hnone : s.readByte src s.rdByte.toNat = none := List.getElem?_eq_none (hend.resolve_left hlen)
    simp [effectOf, rdBitEffect, hsrc, hlen, hnone]

end

/-! ## The statements -/

/-- Settles O26: none of the three checks anything, and each has its one write. -/
theorem streamClearTotalFinalize : Obligations.StreamClearTotalFinalize :=
  fun _ hs => ⟨exec_bsClear hs, exec_bsTotal hs, exec_of_done hs rfl⟩

/-- Settles O27: with n in its range the room decides, and the bits appended are those of `bitsOf`. -/
theorem bsWriteAppendsTheLowBits : Obligations.BsWriteAppendsTheLowBits := by
  intro n value s hs
  refine ⟨fun hn hroom => ?_, fun hn hfull => exec_bsWrite_of_full hs hn hfull value,
    fun hn => exec_of_illegal_operand hs (decide_eq_false (by simp only [bsWriteMax]; omega))⟩
  rw [exec_bsWrite_of_room hs hn hroom, bitsOf_eq_map_getLsbD]
  simp [State.setStream]

/-- Settles O28: the id names a buffer, whose length is that of its sequence but for BSBYTES, which id 5 alone names. -/
theorem readerStartsAndReports : Obligations.ReaderStartsAndReports := by
  intro s hs
  refine ⟨fun b bytes hne hbytes => ?_, exec_rdInit_of_some (buf := .bsbytes) hs rfl,
    fun b hb => exec_of_illegal_operand hs (decide_eq_false (by omega)), ?_⟩
  · obtain ⟨buf, hbuf, rfl⟩ := exists_bufId_of_bufferFile hbytes
    have hview : buf ≠ .bsbytes := fun he => hne ((BufId.ofCode?_eq_bsbytes_iff b).mp (he ▸ hbuf))
    rw [← s.bufLen_eq_length hview]
    exact exec_rdInit_of_some hs hbuf
  · exact exec_of_done hs (by simp [effectOf, State.setRes, flagWord])

/-- Settles O29: the source is the buffer at the place RD_SRC names, and the pop succeeds exactly below both lengths. -/
theorem rdBitPopsTheNextBit : Obligations.RdBitPopsTheNextBit := by
  intro s bytes hs hbytes
  obtain ⟨src, hsrc, rfl⟩ := exists_bufId_of_bufferFile hbytes
  refine ⟨fun v hlen hv hbit => ?_, exec_rdBit_of_end hs hsrc⟩
  rw [exec_rdBit_of_byte hs hsrc hlen hv hbit, State.setRes_advanceReader]
  rfl

end Sys2Proof.Machine
end

section
/-! PROOFS (41_bitstream.md R138). What BS_WRITEs append, RD_BITs give back: a run of the writer, a run of the reader, and
the two joined (O31). -/

open Sys2Proof.Spec

namespace Sys2Proof.Machine

/-! ## Runs of commands -/

section
variable {i : Instr} {is js : List Instr} {s t u : State} {r q : List Word}

theorem trace_cons_of_next (hi : exec i s = .next t) (hrest : trace is t = some (r, u)) :
    trace (i :: is) s = some (t.res :: r, u) := by
  simp [trace, hi, hrest]

theorem trace_cons_cases (h : trace (i :: is) s = some (r, u)) :
    ∃ t r', exec i s = .next t ∧ trace is t = some (r', u) ∧ r = t.res :: r' := by
  unfold trace at h
  split at h
  · rename_i t hi
    obtain ⟨⟨r', u'⟩, hrest, heq⟩ := Option.map_eq_some_iff.mp h
    cases heq
    exact ⟨t, r', hi, hrest, rfl⟩
  · cases h

theorem trace_append (his : trace is s = some (r, t)) (hjs : trace js t = some (q, u)) :
    trace (is ++ js) s = some (r ++ q, u) := by
  induction is generalizing s r with
  | nil => cases his; exact hjs
  | cons i is ih =>
    obtain ⟨s', r', hi, hrest, rfl⟩ := trace_cons_cases his
    exact trace_cons_of_next hi (ih hrest)

end

/-! ## The writer -/

/-- The bits that BS_WRITEs with these widths and values append. -/
def writtenBits (writes : List (Byte × Word)) : List Bool := writes.flatMap fun x => bitsOf x.2.toNat x.1.toNat

@[simp] theorem writtenBits_length (writes : List (Byte × Word)) :
    (writtenBits writes).length = (writes.map fun x => x.1.toNat).sum := by
  simp [writtenBits, List.length_flatMap]

theorem map_flagWord_writtenBits (writes : List (Byte × Word)) :
    (writtenBits writes).map flagWord = writes.flatMap fun x =>
      (List.range x.1.toNat).map fun k => if x.2.getLsbD (x.1.toNat - 1 - k) then 1 else 0 := by
  simp only [writtenBits, List.map_flatMap, bitsOf_eq_map_getLsbD, List.map_map]
  rfl

theorem trace_bsWrites (s : State) (hs : s.fault = false) (bits : List Bool) (writes : List (Byte × Word))
    (hwidth : ∀ x ∈ writes, x.1.toNat ≤ 32) (hroom : bits.length + (writtenBits writes).length ≤ s.cfg.bsMaxBits) :
    trace (writes.map fun x => .bsWrite x.1 x.2) (s.setStream bits) =
      some (List.replicate writes.length s.res, s.setStream (bits ++ writtenBits writes)) := by
  induction writes generalizing bits with
  | nil => simp [trace, writtenBits]
  | cons x writes ih =>
    obtain ⟨hx, hwidth⟩ := List.forall_mem_cons.mp hwidth
    simp only [writtenBits_length, List.map_cons, List.sum_cons] at hroom
    have hwrite : exec (.bsWrite x.1 x.2) (s.setStream bits) =
        .next (s.setStream (bits ++ bitsOf x.2.toNat x.1.toNat)) :=
      exec_bsWrite_of_room (s := s.setStream bits) hs hx (by simp; omega) x.2
    have hrest := ih (bits ++ bitsOf x.2.toNat x.1.toNat) hwidth (by simp; omega)
    simpa [writtenBits, List.replicate_succ] using trace_cons_of_next hwrite hrest

/-! ## The reader -/

/-- The reader is in the bitstream, with the bits `past` read and the bits `rest` before it. -/
structure State.Reading (s : State) (past rest : List Bool) : Prop where
  fault  : s.fault = false
  source : s.rdSrc = 5
  stream : s.bs = past ++ rest
  length : s.rdLen.toNat = ceilBytes s.bs.length
  bit    : s.rdBit.toNat ≤ 7
  cursor : 8 * s.rdByte.toNat + s.rdBit.toNat = past.length

/-- The cursor after a pop is one bit further (R136). -/
theorem State.advanceReader_cursor {s : State} (hbyte : s.rdByte.toNat < s.rdLen.toNat) (hbit : s.rdBit.toNat ≤ 7) :
    s.advanceReader.rdBit.toNat ≤ 7 ∧
      8 * s.advanceReader.rdByte.toNat + s.advanceReader.rdBit.toNat = 8 * s.rdByte.toNat + s.rdBit.toNat + 1 := by
  have hlen := s.rdLen.isLt
  by_cases h : s.rdBit = 7
  · rw [State.advanceReader, if_pos h]
    simp [h]; omega
  · have hne : s.rdBit.toNat ≠ 7 := fun he => h (BitVec.eq_of_toNat_eq he)
    rw [State.advanceReader, if_neg h]
    simp; omega

/-- A pop gives the bit before the reader, and the reader moves past it. -/
theorem State.Reading.rdBit {s : State} {past rest : List Bool} {b : Bool} (h : s.Reading past (b :: rest)) :
    ∃ t, exec .rdBit s = .next t ∧ t.res = flagWord b ∧ t.Reading (past ++ [b]) rest := by
  obtain ⟨hs, hsrc, hbs, hlen, hbit, hcur⟩ := h
  have hbyte : s.rdByte.toNat < ceilBytes s.bs.length := by simp [hbs, ceilBytes]; omega
  have hv : (finalize s.bs)[s.rdByte.toNat]? = some ((finalize s.bs).getD s.rdByte.toNat 0) := by simp [hbyte]
  have hb : ((finalize s.bs).getD s.rdByte.toNat 0).getLsbD (7 - s.rdBit.toNat) = b := by
    rw [(finalizePacksMsbFirst.1 s.bs).2 _ _ hbyte hbit, hcur, hbs]
    simp
  have hexec := exec_rdBit_of_byte (src := .bsbytes) hs (by rw [hsrc]; rfl) (hlen ▸ hbyte) hv hbit
  rw [hb] at hexec
  obtain ⟨hbit', hcur'⟩ := State.advanceReader_cursor (s := s.setRes (flagWord b)) (hlen ▸ hbyte) hbit
  exact ⟨_, hexec, by simp,
    { fault := by simpa, source := by simpa, stream := by simpa using hbs, length := by simpa using hlen
      bit := hbit', cursor := by simpa [← hcur] using hcur' }⟩

theorem State.Reading.trace_rdBits {s : State} {past rest : List Bool} (h : s.Reading past rest) :
    ∃ t, trace (List.replicate rest.length .rdBit) s = some (rest.map flagWord, t) := by
  induction rest generalizing s past with
  | nil => exact ⟨s, rfl⟩
  | cons b rest ih =>
    obtain ⟨t, hpop, hres, ht⟩ := h.rdBit
    obtain ⟨u, hrest⟩ := ih ht
    exact ⟨u, by simpa [hres, List.replicate_succ] using trace_cons_of_next hpop hrest⟩

/-- RD_INIT BSBYTES puts the reader at the front of the bitstream. -/
theorem exec_rdInit_reading {s : State} (hs : s.fault = false) (hlen : s.bsLen.toNat = s.bs.length) :
    ∃ t, exec (.rdInit 5) s = .next t ∧ t.Reading [] s.bs := by
  have hceil : ceilBytes s.bs.length < 2 ^ 32 := by
    have := s.bsLen.isLt
    unfold ceilBytes; omega
  exact ⟨_, exec_rdInit_of_some (buf := .bsbytes) hs rfl,
    { fault := hs, source := rfl, stream := rfl, length := by simpa [State.bufLen, hlen] using hceil
      bit := by simp, cursor := rfl }⟩

/-! ## The statement -/

/-- Settles O31: the writes leave their bits as the bitstream, and the reader gives the bitstream back bit by bit. -/
theorem bitstreamRoundTrip : Obligations.BitstreamRoundTrip := by
  intro s writes hs hmax hwidth hroom
  rw [← writtenBits_length] at hroom ⊢
  have hfit : (writtenBits writes).length < 2 ^ 32 := by omega
  have hwrites := trace_bsWrites s hs [] writes hwidth (by simpa using hroom)
  have htotal := exec_bsTotal (s := s.setStream (writtenBits writes)) hs
  obtain ⟨t, hinit, hreading⟩ := exec_rdInit_reading (s := (s.setStream (writtenBits writes)).setRes _) hs
    (toNat_ofNat_of_le le_rfl hfit)
  obtain ⟨u, hreads⟩ := hreading.trace_rdBits
  have hread := trace_cons_of_next htotal (trace_cons_of_next hinit hreads)
  have hrun := trace_append (trace_cons_of_next (exec_bsClear hs) hwrites) hread
  refine ⟨_, u, by simpa using hrun, ?_, ?_⟩
  · simp
  · simp [List.drop_append, map_flagWord_writtenBits]

end Sys2Proof.Machine
end

section
/-! PROOFS (42_gf256.md R160-R176). The field: its nonzero elements are the powers EXP[i], and two of them multiply by adding
their exponents. The field laws, the quotient and the commands follow (O32, O34 to O37). -/

namespace Sys2Proof.Machine

/-! ## The printed tables (R160, R161) -/

/-- R160's recurrence, closed by EXP[254] times x, which is EXP[0]. -/
theorem expTable_succ_mod : ∀ i < 255, expTable ((i + 1) % 255) = xtime (expTable i) := by decide +kernel

theorem logTable_expTable : ∀ i < 255, logTable (expTable i) = i := by decide +kernel

theorem logTable_lt_and_expTable_logTable : ∀ a : Byte, a ≠ 0 → logTable a < 255 ∧ expTable (logTable a) = a := by
  decide +kernel

/-! ## Powers and logarithms (R165, R166, R175) -/

theorem gfExp_eq_expTable {i : Nat} (hi : i < 255) : gfExp i = expTable i := congrArg expTable (Nat.mod_eq_of_lt hi)

theorem gfExp_congr {i j : Nat} (h : i % 255 = j % 255) : gfExp i = gfExp j := congrArg expTable h

/-- The next power is x times this one, at every exponent. -/
theorem gfExp_succ (i : Nat) : gfExp (i + 1) = xtime (gfExp i) := by
  rw [gfExp, Nat.add_mod]
  exact expTable_succ_mod (i % 255) (Nat.mod_lt i (by decide))

theorem logTable_gfExp (i : Nat) : logTable (gfExp i) = i % 255 := logTable_expTable _ (Nat.mod_lt i (by decide))

theorem logTable_lt {a : Byte} (ha : a ≠ 0) : logTable a < 255 := (logTable_lt_and_expTable_logTable a ha).1

theorem expTable_logTable {a : Byte} (ha : a ≠ 0) : expTable (logTable a) = a := (logTable_lt_and_expTable_logTable a ha).2

theorem gfExp_logTable {a : Byte} (ha : a ≠ 0) : gfExp (logTable a) = a :=
  (gfExp_eq_expTable (logTable_lt ha)).trans (expTable_logTable ha)

theorem gfExp_ne_zero (i : Nat) : gfExp i ≠ 0 := by
  intro h
  have hmod : i % 255 = 0 % 255 := by rw [← logTable_gfExp, h]; rfl
  exact absurd (gfExp_congr hmod ▸ h) (by decide)

theorem eq_zero_or_eq_gfExp (a : Byte) : a = 0 ∨ ∃ i, a = gfExp i :=
  or_iff_not_imp_left.mpr fun ha => ⟨_, (gfExp_logTable ha).symm⟩

theorem gfLog_zero : gfLog 0 = none := rfl

theorem gfLog_of_ne_zero {a : Byte} (ha : a ≠ 0) : gfLog a = some (logTable a) := if_neg ha

/-! ## The product (R163, R176) -/

@[simp] theorem gfMul_zero (a : Byte) : gfMul a 0#8 = 0#8 := if_pos (.inr rfl)

@[simp] theorem zero_gfMul (b : Byte) : gfMul 0#8 b = 0#8 := if_pos (.inl rfl)

/-- Powers multiply by adding their exponents. -/
theorem gfMul_gfExp (i j : Nat) : gfMul (gfExp i) (gfExp j) = gfExp (i + j) := by
  rw [gfMul, if_neg (not_or.mpr ⟨gfExp_ne_zero i, gfExp_ne_zero j⟩), logTable_gfExp, logTable_gfExp, ← Nat.add_mod]
  rfl

theorem gfMul_comm (a b : Byte) : gfMul a b = gfMul b a := by
  simp only [gfMul, or_comm, Nat.add_comm]

theorem gfMul_assoc (a b c : Byte) : gfMul (gfMul a b) c = gfMul a (gfMul b c) := by
  obtain rfl | ⟨i, rfl⟩ := eq_zero_or_eq_gfExp a
  · simp
  obtain rfl | ⟨j, rfl⟩ := eq_zero_or_eq_gfExp b
  · simp
  obtain rfl | ⟨k, rfl⟩ := eq_zero_or_eq_gfExp c
  · simp
  simp only [gfMul_gfExp, Nat.add_assoc]

@[simp] theorem one_gfMul (b : Byte) : gfMul 1#8 b = b := by
  obtain rfl | ⟨j, rfl⟩ := eq_zero_or_eq_gfExp b
  · simp
  · exact (gfMul_gfExp 0 j).trans (congrArg gfExp j.zero_add)

@[simp] theorem gfMul_one (a : Byte) : gfMul a 1#8 = a := (gfMul_comm a 1).trans (one_gfMul a)

/-! ## Distributivity (R176): a factor EXP[i] is i times the linear map `xtime` -/

@[simp] theorem xtime_zero : xtime 0#8 = 0#8 := rfl

/-- A multiple that a bit selects is linear in the bit. -/
theorem ite_xor_eq_xor_ite {n : Nat} (x y : Bool) (c : BitVec n) :
    (if x ^^ y then c else 0) = (if x then c else 0) ^^^ if y then c else 0 := by
  cases x <;> cases y <;> simp

theorem xtime_xor (a b : Byte) : xtime (a ^^^ b) = xtime a ^^^ xtime b := by
  simp only [xtime, BitVec.shiftLeft_xor_distrib, BitVec.getLsbD_xor, ite_xor_eq_xor_ite]
  ac_rfl

theorem gfMul_gfExp_succ (i : Nat) (b : Byte) : gfMul (gfExp (i + 1)) b = xtime (gfMul (gfExp i) b) := by
  obtain rfl | ⟨j, rfl⟩ := eq_zero_or_eq_gfExp b
  · simp
  · rw [gfMul_gfExp, gfMul_gfExp, ← gfExp_succ, Nat.add_right_comm]

theorem gfMul_xor (a b c : Byte) : gfMul a (b ^^^ c) = gfMul a b ^^^ gfMul a c := by
  obtain rfl | ⟨i, rfl⟩ := eq_zero_or_eq_gfExp a
  · simp
  induction i with
  | zero => exact (one_gfMul _).trans (congrArg₂ _ (one_gfMul b) (one_gfMul c)).symm
  | succ i ih => rw [gfMul_gfExp_succ, ih, xtime_xor, ← gfMul_gfExp_succ, ← gfMul_gfExp_succ]

/-! ## The quotient (R164) -/

theorem gfDiv_zero (a : Byte) : gfDiv a 0 = none := if_pos rfl

theorem zero_gfDiv {b : Byte} (hb : b ≠ 0) : gfDiv 0 b = some 0 := by rw [gfDiv, if_neg hb, if_pos rfl]

theorem gfDiv_gfExp (i j : Nat) : gfDiv (gfExp i) (gfExp j) = some (gfExp (i % 255 + 255 - j % 255)) := by
  rw [gfDiv, if_neg (gfExp_ne_zero j), if_neg (gfExp_ne_zero i), logTable_gfExp, logTable_gfExp]
  rfl

theorem exists_gfDiv_eq_some (a : Byte) {b : Byte} (hb : b ≠ 0) : ∃ q, gfDiv a b = some q ∧ gfMul q b = a := by
  obtain ⟨j, rfl⟩ := (eq_zero_or_eq_gfExp b).resolve_left hb
  obtain rfl | ⟨i, rfl⟩ := eq_zero_or_eq_gfExp a
  · exact ⟨0, zero_gfDiv hb, zero_gfMul _⟩
  · exact ⟨_, gfDiv_gfExp i j, by rw [gfMul_gfExp]; exact gfExp_congr (by omega)⟩

theorem gfMul_right_cancel {p q b : Byte} (hb : b ≠ 0) (h : gfMul p b = gfMul q b) : p = q := by
  obtain ⟨c, -, hc⟩ := exists_gfDiv_eq_some 1 hb
  have hinv (x : Byte) : gfMul (gfMul x b) c = x := by
    rw [gfMul_assoc, gfMul_comm b, hc]
    exact gfMul_one x
  rw [← hinv p, h, hinv]

/-! ## The outcome of GF_DIV and GF_LOG (R172, R174) -/

section
variable {a b : Byte} {s : State}

theorem exec_gfDiv_of_some {q : Byte} (hs : s.fault = false) (hq : gfDiv a b = some q) :
    exec (.gfDiv a b) s = .next (s.setRes (zextByte q)) :=
  exec_of_done hs (by simp [effectOf, gfDivEffect, hq])

theorem exec_gfDiv_of_none (hs : s.fault = false) (hq : gfDiv a b = none) :
    exec (.gfDiv a b) s = .next (recordFault .domainError 0 s) :=
  exec_of_raise hs (by simp [effectOf, gfDivEffect, hq])

theorem exec_gfLog_of_some {k : Nat} (hs : s.fault = false) (hk : gfLog a = some k) :
    exec (.gfLog a) s = .next (s.setResNat k) :=
  exec_of_done hs (by simp [effectOf, gfLogEffect, hk])

theorem exec_gfLog_of_none (hs : s.fault = false) (hk : gfLog a = none) :
    exec (.gfLog a) s = .next (recordFault .domainError 0 s) :=
  exec_of_raise hs (by simp [effectOf, gfLogEffect, hk])

end

/-! ## The statements on the field and its commands -/

/-- Settles O34: the laws of the product, and 1 divided by a as the inverse of a. -/
theorem fieldLaws : Obligations.FieldLaws := by
  refine ⟨gfMul_zero, gfMul_comm, fun _ => BitVec.xor_self, gfMul_assoc, gfMul_xor, fun a ha => ?_⟩
  obtain ⟨q, hq, hmul⟩ := exists_gfDiv_eq_some 1 ha
  exact ⟨q, hq, (gfMul_comm a q).trans hmul⟩

/-- Settles O32: the recurrence and the two inverses are read off the tables, and LOG makes EXP injective. -/
theorem fieldTablesFollowTheirRecurrence : Obligations.FieldTablesFollowTheirRecurrence := by
  refine ⟨rfl, fun i hi => ?_, fun i j hi hj h => ?_, fun a ha => ⟨_, logTable_lt ha, expTable_logTable ha⟩,
    logTable_expTable, fun a ha => ⟨_, gfLog_of_ne_zero ha, gfExp_logTable ha⟩, fun i hi => ?_⟩
  · have h := expTable_succ_mod i (by omega)
    rwa [Nat.mod_eq_of_lt (by omega)] at h
  · rw [← logTable_expTable i hi, h, logTable_expTable j hj]
  · rw [gfLog_of_ne_zero (gfExp_ne_zero i), logTable_gfExp, Nat.mod_eq_of_lt (by omega)]

/-- Settles O35: both commands complete with the value of their function, which is the formula of its rule. -/
theorem gfAddAndGfMulGiveTheirElement : Obligations.GfAddAndGfMulGiveTheirElement :=
  ⟨fun _ _ => rfl, fun _ _ _ hs => ⟨exec_of_done hs rfl, exec_of_done hs rfl⟩⟩

/-- Settles O36: a nonzero divisor cancels, so its quotient is the only one. -/
theorem gfDivGivesTheQuotient : Obligations.GfDivGivesTheQuotient := by
  intro a b s hs
  refine ⟨fun hb => ?_, exec_gfDiv_of_none hs (gfDiv_zero a)⟩
  obtain ⟨q, hq, hmul⟩ := exists_gfDiv_eq_some a hb
  exact ⟨q, exec_gfDiv_of_some hs hq, hmul, fun q' h => gfMul_right_cancel hb (h.trans hmul.symm)⟩

/-- Settles O37: GF_LOG of a nonzero a answers LOG[a], the place of a in EXP. -/
theorem gfExpAndGfLogGiveTheirValue : Obligations.GfExpAndGfLogGiveTheirValue := by
  intro a s hs
  refine ⟨exec_of_done hs rfl, fun ha => ?_, exec_gfLog_of_none hs gfLog_zero⟩
  exact ⟨logTable a, Nat.le_of_lt_succ (logTable_lt ha), expTable_logTable ha,
    exec_gfLog_of_some hs (gfLog_of_ne_zero ha)⟩

end Sys2Proof.Machine
end

section
/-! PROOFS (42_gf256.md R167). gf_mul and the reduced carry-less product are both linear over XOR in each factor, so they
agree on all bytes once they agree on the powers x^0 to x^7 (O33). -/

open Sys2Proof.Spec

namespace Sys2Proof.Machine

/-! ## Sums over the bits of a byte -/

/-- The XOR of `f k` over the bits k of `b` that are 1. -/
def bitSum {n : Nat} (b : Byte) (f : Nat → BitVec n) : BitVec n :=
  (List.range 8).foldl (fun acc k => if b.getLsbD k then acc ^^^ f k else acc) 0

/-- The carry-less product adds up the shifts of one factor that the bits of the other select. -/
theorem carrylessProduct_eq_bitSum (a b : Byte) : carrylessProduct a b = bitSum b (a.zeroExtend 16 <<< ·) := rfl

/-- EXP[k] is x^k for k < 8, so a byte is the sum of the powers its bits select. -/
theorem bitSum_gfExp : ∀ b : Byte, bitSum b gfExp = b := by decide +kernel

theorem bitSum_congr {n : Nat} {f g : Nat → BitVec n} (h : ∀ k < 8, f k = g k) (b : Byte) : bitSum b f = bitSum b g :=
  List.foldl_ext _ _ _ fun acc k hk => by rw [h k (List.mem_range.mp hk)]

/-! ## Maps linear over XOR -/

/-- The map takes sums of polynomials over GF(2) to sums. -/
def XorLinear {n m : Nat} (φ : BitVec n → BitVec m) : Prop := ∀ p q, φ (p ^^^ q) = φ p ^^^ φ q

section
variable {n m k : Nat} {φ : BitVec n → BitVec m}

theorem XorLinear.map_zero (hφ : XorLinear φ) : φ 0 = 0 := by
  simpa using hφ 0 0

theorem XorLinear.comp {ψ : BitVec m → BitVec k} (hψ : XorLinear ψ) (hφ : XorLinear φ) :
    XorLinear fun p => ψ (φ p) :=
  fun p q => (congrArg ψ (hφ p q)).trans (hψ _ _)

theorem XorLinear.map_bitSum (hφ : XorLinear φ) (b : Byte) (f : Nat → BitVec n) :
    φ (bitSum b f) = bitSum b fun k => φ (f k) := by
  rw [bitSum, bitSum, ← hφ.map_zero]
  refine (List.foldl_hom φ fun acc k => ?_).symm
  split
  · exact (hφ acc (f k)).symm
  · rfl

/-- Two linear maps of a byte that agree on x^0 to x^7 agree everywhere. -/
theorem XorLinear.eq_of_eq_on_powers {φ ψ : Byte → BitVec n} (hφ : XorLinear φ) (hψ : XorLinear ψ)
    (h : ∀ k < 8, φ (gfExp k) = ψ (gfExp k)) (b : Byte) : φ b = ψ b := by
  rw [← bitSum_gfExp b, hφ.map_bitSum, hψ.map_bitSum]
  exact bitSum_congr h b

end

theorem xorLinear_extend_shift (k : Nat) : XorLinear fun a : Byte => a.zeroExtend 16 <<< k := fun p q => by
  simp only [BitVec.truncate_eq_setWidth, BitVec.setWidth_xor, BitVec.shiftLeft_xor_distrib]

/-! ## The reduction -/

/-- One turn of the reduction: a coefficient of x^k is cleared by the modulus times x^(k-8). -/
def reduceTurn (p : BitVec 16) (k : Nat) : BitVec 16 :=
  if p.getLsbD k then p ^^^ (primPoly.zeroExtend 16 <<< (k - 8)) else p

theorem reduceModulus_eq_turns (p : BitVec 16) :
    reduceModulus p = ([14, 13, 12, 11, 10, 9, 8].foldl reduceTurn p).truncate 8 := rfl

theorem reduceTurn_eq_xor (p : BitVec 16) (k : Nat) :
    reduceTurn p k = p ^^^ if p.getLsbD k then primPoly.zeroExtend 16 <<< (k - 8) else 0 := by
  unfold reduceTurn
  split <;> simp

theorem reduceTurn_xor (p q : BitVec 16) (k : Nat) : reduceTurn (p ^^^ q) k = reduceTurn p k ^^^ reduceTurn q k := by
  simp only [reduceTurn_eq_xor, BitVec.getLsbD_xor, ite_xor_eq_xor_ite]
  ac_rfl

theorem xorLinear_reduceModulus : XorLinear reduceModulus := fun p q => by
  have hturns := List.foldl_hom₂ [14, 13, 12, 11, 10, 9, 8] (· ^^^ ·) reduceTurn reduceTurn reduceTurn p q
    fun p q k => (reduceTurn_xor p q k).symm
  rw [reduceModulus_eq_turns, hturns, BitVec.truncate_eq_setWidth, BitVec.setWidth_xor]
  rfl

/-- EXP[n] is x^n modulo PRIM_POLY, at each degree n that a product of bytes reaches. -/
theorem reduceModulus_power : ∀ n < 15, reduceModulus (1#16 <<< n) = gfExp n := by decide +kernel

theorem extend_gfExp : ∀ j < 8, (gfExp j).zeroExtend 16 = 1#16 <<< j := by decide

/-- x^k times a, reduced, is the product of the field. -/
theorem reduceModulus_shift (a : Byte) {k : Nat} (hk : k < 8) :
    reduceModulus (a.zeroExtend 16 <<< k) = gfMul a (gfExp k) := by
  rw [gfMul_comm]
  refine (xorLinear_reduceModulus.comp (xorLinear_extend_shift k)).eq_of_eq_on_powers (gfMul_xor (gfExp k)) ?_ a
  intro j hj
  rw [extend_gfExp j hj, ← BitVec.shiftLeft_add, reduceModulus_power (j + k) (by omega), gfMul_gfExp, Nat.add_comm]

/-! ## The statement -/

/-- Settles O33: both sides are the sum, over the bits k of b, of the product of a and x^k. -/
theorem gfMulIsTheCarrylessProduct : Obligations.GfMulIsTheCarrylessProduct := fun a b => calc
  gfMul a b = gfMul a (bitSum b gfExp) := by rw [bitSum_gfExp]
  _ = bitSum b fun k => gfMul a (gfExp k) := XorLinear.map_bitSum (gfMul_xor a) b gfExp
  _ = bitSum b fun k => reduceModulus (a.zeroExtend 16 <<< k) :=
    bitSum_congr (fun _ hk => (reduceModulus_shift a hk).symm) b
  _ = reduceModulus (carrylessProduct a b) := (xorLinear_reduceModulus.map_bitSum b _).symm

end Sys2Proof.Machine
end

section
/-! PROOFS (43_reed_solomon.md R190-R192). Polynomials coefficient by coefficient: a product is the convolution, its
value at a power of x is the product of the values, and so the generator vanishes at each of its roots (O38, O39). -/

open Sys2Proof.Spec

namespace Sys2Proof.Machine

/-! ## XOR sums -/

/-- The XOR of `f i` over i < n. -/
def xorSum (n : Nat) (f : Nat → Byte) : Byte := (List.range n).foldl (fun acc i => acc ^^^ f i) 0

@[simp] theorem xorSum_zero_left (f : Nat → Byte) : xorSum 0 f = 0#8 := rfl

theorem xorSum_succ (n : Nat) (f : Nat → Byte) : xorSum (n + 1) f = f 0 ^^^ xorSum n fun i => f (i + 1) := by
  rw [xorSum, List.range_succ_eq_map, List.foldl_cons, List.foldl_map, BitVec.xor_comm 0 (f 0)]
  exact List.foldl_hom (f 0 ^^^ ·) fun _ _ => BitVec.xor_assoc ..

@[simp] theorem xorSum_const_zero (n : Nat) : xorSum n (fun _ => 0#8) = 0#8 := by
  induction n with
  | zero => rfl
  | succ n ih => simp [xorSum_succ, ih]

/-! ## Coefficients (R190) -/

/-- Coefficient k of a sequence, from its first one; 0 past its end. -/
def coeff (p : List Byte) (k : Nat) : Byte := p.getD k 0

@[simp] theorem coeff_nil (k : Nat) : coeff [] k = 0#8 := rfl

@[simp] theorem coeff_cons_zero (a : Byte) (p : List Byte) : coeff (a :: p) 0 = a := rfl

@[simp] theorem coeff_cons_succ (a : Byte) (p : List Byte) (k : Nat) : coeff (a :: p) (k + 1) = coeff p k := rfl

theorem coeff_of_length_le {p : List Byte} {k : Nat} (h : p.length ≤ k) : coeff p k = 0#8 :=
  List.getD_eq_default p 0 h

theorem coeff_append_left {p : List Byte} {k : Nat} (h : k < p.length) (q : List Byte) : coeff (p ++ q) k = coeff p k :=
  List.getD_append p q 0 k h

theorem coeff_append_right {p : List Byte} {k : Nat} (h : p.length ≤ k) (q : List Byte) :
    coeff (p ++ q) k = coeff q (k - p.length) :=
  List.getD_append_right p q 0 k h

@[simp] theorem coeff_zeroBytes (n k : Nat) : coeff (zeroBytes n) k = 0#8 :=
  List.getElem?_getD_replicate_default_eq 0 n k

theorem coeff_map_gfMul (a : Byte) (q : List Byte) (k : Nat) : coeff (q.map (gfMul a)) k = gfMul a (coeff q k) := by
  simpa [coeff] using List.getD_map (f := gfMul a) (l := q) (d := 0) (n := k)

theorem coeff_addLeading (p q : List Byte) (k : Nat) : coeff (addLeading p q) k = coeff p k ^^^ coeff q k := by
  induction p generalizing q k with
  | nil => simp [addLeading]
  | cons a p ih =>
    cases q with
    | nil => simp [addLeading]
    | cons b q =>
      cases k with
      | zero => rfl
      | succ k => exact ih q k

/-- Sequences of one length are equal when their coefficients are. -/
theorem eq_of_coeff_eq {p q : List Byte} (hlen : p.length = q.length) (h : ∀ k, coeff p k = coeff q k) : p = q :=
  List.ext_getElem hlen fun k hp hq => by
    rw [← List.getD_eq_getElem p 0 hp, ← List.getD_eq_getElem q 0 hq]
    exact h k

/-! ## The product (R191) -/

/-- The first coefficient of a factor is one turn of the outer loop of R191, and the others multiply one place on. -/
theorem coeff_polyMultiply_cons (a : Byte) (p q : List Byte) (k : Nat) :
    coeff (polyMultiply (a :: p) q) k = gfMul a (coeff q k) ^^^ coeff (0 :: polyMultiply p q) k := by
  cases p with
  | nil => cases k <;> simp [polyMultiply, coeff_map_gfMul]
  | cons b p => rw [polyMultiply, coeff_addLeading, coeff_map_gfMul]; exact List.cons_ne_nil b p

/-- The bound on k - i only leaves out products with a coefficient past the end, which are 0. -/
theorem convolution_eq_xorSum (a b : List Byte) (k : Nat) :
    convolution a b k = xorSum a.length fun i => if i ≤ k then gfMul (coeff a i) (coeff b (k - i)) else 0 := by
  refine List.foldl_ext _ _ _ fun acc i _ => ?_
  by_cases hi : i ≤ k
  · by_cases hb : k - i < b.length
    · simp only [hi, hb, and_self, if_true]; rfl
    · simp [hi, hb, coeff_of_length_le (Nat.le_of_not_lt hb)]
  · simp [hi]

theorem convolution_cons_zero (a : Byte) (p b : List Byte) : convolution (a :: p) b 0 = gfMul a (coeff b 0) := by
  simp [convolution_eq_xorSum, xorSum_succ]

theorem convolution_cons_succ (a : Byte) (p b : List Byte) (k : Nat) :
    convolution (a :: p) b (k + 1) = gfMul a (coeff b (k + 1)) ^^^ convolution p b k := by
  simp [convolution_eq_xorSum, xorSum_succ]

theorem coeff_polyMultiply (a b : List Byte) (k : Nat) : coeff (polyMultiply a b) k = convolution a b k := by
  induction a generalizing k with
  | nil => rfl
  | cons x p ih =>
    rw [coeff_polyMultiply_cons]
    cases k with
    | zero => rw [convolution_cons_zero, coeff_cons_zero]; exact BitVec.xor_zero
    | succ k => rw [convolution_cons_succ, coeff_cons_succ, ih]

theorem coeff_zero_polyMultiply (a b : List Byte) :
    coeff (polyMultiply a b) 0 = gfMul (coeff a 0) (coeff b 0) := by
  cases a with
  | nil => exact (zero_gfMul _).symm
  | cons x p => rw [coeff_polyMultiply, convolution_cons_zero, coeff_cons_zero]

/-! ## The value at a power of x (R190, R194) -/

theorem xor_gfMul (a b c : Byte) : gfMul (a ^^^ b) c = gfMul a c ^^^ gfMul b c := by
  rw [gfMul_comm, gfMul_xor, gfMul_comm c, gfMul_comm c]

theorem gfMul_gfExp_gfExp (a : Byte) (i j : Nat) : gfMul (gfMul a (gfExp i)) (gfExp j) = gfMul a (gfExp (i + j)) := by
  rw [gfMul_assoc, gfMul_gfExp]

@[simp] theorem evalPoly_nil (x : Byte) : evalPoly [] x = 0#8 := rfl

/-- One turn of Horner's rule. -/
theorem evalPoly_concat (p : List Byte) (b x : Byte) : evalPoly (p ++ [b]) x = gfMul (evalPoly p x) x ^^^ b := by
  simp [evalPoly, gfAdd]

theorem evalPoly_zero_cons (p : List Byte) (x : Byte) : evalPoly (0 :: p) x = evalPoly p x := by simp [evalPoly, gfAdd]

theorem evalPoly_singleton (a x : Byte) : evalPoly [a] x = a := by simp [evalPoly, gfAdd]

theorem evalPoly_map_gfMul (a x : Byte) (q : List Byte) : evalPoly (q.map (gfMul a)) x = gfMul a (evalPoly q x) := by
  induction q using List.reverseRecOn with
  | nil => simp
  | append_singleton q b ih =>
    rw [List.map_append, List.map_singleton, evalPoly_concat, evalPoly_concat, ih, gfMul_xor, gfMul_assoc]

theorem evalPoly_append (p q : List Byte) (j : Nat) :
    evalPoly (p ++ q) (gfExp j) = gfMul (evalPoly p (gfExp j)) (gfExp (j * q.length)) ^^^ evalPoly q (gfExp j) := by
  induction q using List.reverseRecOn with
  | nil =>
    rw [List.append_nil, List.length_nil, Nat.mul_zero, evalPoly_nil, BitVec.xor_zero]
    exact (gfMul_one _).symm
  | append_singleton q b ih =>
    have hlen : j * (q ++ [b]).length = j * q.length + j := by simp [Nat.mul_add]
    rw [← List.append_assoc, evalPoly_concat, evalPoly_concat, ih, hlen, xor_gfMul, gfMul_gfExp_gfExp,
      BitVec.xor_assoc]

theorem evalPoly_cons (a : Byte) (p : List Byte) (j : Nat) :
    evalPoly (a :: p) (gfExp j) = gfMul a (gfExp (j * p.length)) ^^^ evalPoly p (gfExp j) := by
  simpa [evalPoly, gfAdd] using evalPoly_append [a] p j

/-- A sum aligned at the first coefficients takes the shorter summand times a power of x. -/
theorem evalPoly_addLeading {p q : List Byte} {d : Nat} (h : q.length = p.length + d) (j : Nat) :
    evalPoly (addLeading p q) (gfExp j) = gfMul (evalPoly p (gfExp j)) (gfExp (j * d)) ^^^ evalPoly q (gfExp j) := by
  induction p generalizing q with
  | nil => simp [addLeading]
  | cons a p ih =>
    cases q with
    | nil => simp at h; omega
    | cons b q =>
      have hlen : q.length = p.length + d := by simpa [Nat.succ_add] using h
      have hsum : (addLeading p q).length = p.length + d := by simp [hlen]
      rw [addLeading, gfAdd, evalPoly_cons, ih hlen, evalPoly_cons, evalPoly_cons, hsum, hlen, Nat.mul_add, xor_gfMul,
        xor_gfMul, gfMul_gfExp_gfExp]
      ac_rfl

theorem evalPoly_polyMultiply (a : List Byte) {b : List Byte} (hb : b ≠ []) (j : Nat) :
    evalPoly (polyMultiply a b) (gfExp j) = gfMul (evalPoly a (gfExp j)) (evalPoly b (gfExp j)) := by
  induction a with
  | nil => simp [polyMultiply]
  | cons x p ih =>
    cases p with
    | nil => rw [polyMultiply, evalPoly_map_gfMul, evalPoly_singleton]
    | cons y p =>
      have hlen : (0 :: polyMultiply (y :: p) b).length = (b.map (gfMul x)).length + (y :: p).length := by
        rw [List.length_cons, polyMultiply_length (List.cons_ne_nil y p) hb, List.length_map, Nat.add_comm]
      rw [polyMultiply, evalPoly_addLeading hlen, evalPoly_map_gfMul, evalPoly_zero_cons, ih, evalPoly_cons x,
        xor_gfMul, gfMul_assoc, gfMul_comm (evalPoly b _), ← gfMul_assoc]
      exact List.cons_ne_nil y p

/-! ## The generator (R192) -/

theorem buildGenerator_succ {r : Nat} (h : 1 ≤ r) :
    buildGenerator (r + 1) = polyMultiply (buildGenerator r) [1, gfExp r] := by
  obtain ⟨j, rfl⟩ := Nat.exists_eq_add_of_le' h
  rfl

theorem buildGenerator_ne_nil {r : Nat} (h : 1 ≤ r) : buildGenerator r ≠ [] :=
  List.ne_nil_of_length_eq_add_one (buildGenerator_length h)

theorem coeff_zero_buildGenerator {r : Nat} (h : 1 ≤ r) : coeff (buildGenerator r) 0 = 1 := by
  induction r, h using Nat.le_induction with
  | base => rfl
  | succ r h ih =>
    rw [buildGenerator_succ h, coeff_zero_polyMultiply, ih]
    exact one_gfMul 1

/-- The generator is monic: its first coefficient is 1. -/
theorem buildGenerator_eq_cons {r : Nat} (h : 1 ≤ r) : buildGenerator r = 1 :: (buildGenerator r).tail := by
  obtain ⟨a, p, hap⟩ := List.exists_cons_of_ne_nil (buildGenerator_ne_nil h)
  obtain rfl : a = 1 := by simpa [hap] using coeff_zero_buildGenerator h
  rw [hap, List.tail_cons]

/-- The factor of a turn vanishes at its root. -/
theorem evalPoly_factor_self (r : Nat) : evalPoly [1, gfExp r] (gfExp r) = 0 := by
  simp [evalPoly, gfAdd]

theorem evalPoly_buildGenerator {r j : Nat} (h : 1 ≤ r) (hj : j < r) : evalPoly (buildGenerator r) (gfExp j) = 0 := by
  induction r, h using Nat.le_induction with
  | base => obtain rfl := Nat.lt_one_iff.mp hj; rfl
  | succ r h ih =>
    rw [buildGenerator_succ h, evalPoly_polyMultiply _ (List.cons_ne_nil _ _)]
    obtain hlt | rfl := Nat.lt_succ_iff_lt_or_eq.mp hj
    · rw [ih hlt]; exact zero_gfMul _
    · rw [evalPoly_factor_self]; exact gfMul_zero _

/-! ## The statements on polynomials -/

/-- Settles O38: coefficient by coefficient, by induction on the first factor. -/
theorem polyMultiplyIsTheConvolution : Obligations.PolyMultiplyIsTheConvolution :=
  fun a b ha hb => ⟨Nat.eq_sub_of_add_eq (polyMultiply_length ha hb), fun k _ => coeff_polyMultiply a b k⟩

/-- Settles O39: each turn multiplies by a factor with one root more, and values multiply. -/
theorem generatorHasItsRoots : Obligations.GeneratorHasItsRoots :=
  ⟨rfl, fun _ hr => ⟨buildGenerator_succ hr, buildGenerator_length hr, by rw [buildGenerator_eq_cons hr]; rfl,
    fun _ hj => evalPoly_buildGenerator hr hj⟩⟩

end Sys2Proof.Machine
end

section
/-! PROOFS (43_reed_solomon.md R193-R197). The turns of the division keep the message equal to a multiple of the
generator plus what is left, and they are linear. So a codeword is a multiple of the generator, and its syndromes are 0
(O40, O41). -/

open Sys2Proof.Spec

namespace Sys2Proof.Machine

/-! ## One turn of the division (R193) -/

/-- What one turn leaves behind the leading coefficient c of a message c :: m. -/
def divisionStep (gRest : List Byte) (c : Byte) (m : List Byte) : List Byte :=
  if c = 0 then m else addLeading m (gRest.map fun g => gfMul g c)

theorem divideTurns_succ_cons (gRest : List Byte) (k : Nat) (c : Byte) (m : List Byte) :
    divideTurns gRest (k + 1) (c :: m) = divideTurns gRest k (divisionStep gRest c m) := rfl

/-- The turn adds the generator times c, whether the code skips it for c = 0 or not. -/
theorem coeff_divisionStep (gRest : List Byte) (c : Byte) (m : List Byte) (i : Nat) :
    coeff (divisionStep gRest c m) i = coeff m i ^^^ gfMul c (coeff gRest i) := by
  unfold divisionStep
  split
  · subst c; simp
  · simp only [coeff_addLeading, gfMul_comm _ c, ← coeff_map_gfMul]

theorem divisionStep_length {gRest m : List Byte} (h : gRest.length ≤ m.length) (c : Byte) :
    (divisionStep gRest c m).length = m.length := by
  unfold divisionStep
  split
  · rfl
  · simpa using h

/-! ## The remainder (R195, R197) -/

theorem zeroBytes_succ_append (k : Nat) (m : List Byte) : zeroBytes (k + 1) ++ m = 0 :: (zeroBytes k ++ m) := rfl

theorem divideTurns_zeroBytes_append (gRest : List Byte) (k : Nat) (m : List Byte) :
    divideTurns gRest k (zeroBytes k ++ m) = m := by
  induction k with
  | zero => rfl
  | succ k ih => exact ih

/-- k turns add a multiple of the generator to the message, whose first k coefficients become 0. -/
theorem exists_polyMultiply_eq_divideTurns (gRest : List Byte) {k : Nat} {m : List Byte}
    (h : k + gRest.length ≤ m.length) :
    ∃ q, q.length = k ∧ ∀ i, coeff (polyMultiply q (1 :: gRest)) i =
      coeff m i ^^^ coeff (zeroBytes k ++ divideTurns gRest k m) i := by
  induction k generalizing m with
  | zero => exact ⟨[], rfl, fun i => BitVec.xor_self.symm⟩
  | succ k ih =>
    obtain _ | ⟨c, m⟩ := m
    · simp at h
    · have hlen : k + gRest.length ≤ m.length := by simp at h; omega
      obtain ⟨q, hq, hcoeff⟩ := ih (m := divisionStep gRest c m) (by rwa [divisionStep_length (by omega)])
      refine ⟨c :: q, congrArg (· + 1) hq, fun i => ?_⟩
      rw [coeff_polyMultiply_cons, divideTurns_succ_cons, zeroBytes_succ_append]
      cases i with
      | zero => simp
      | succ i =>
        rw [coeff_cons_succ, coeff_cons_succ, coeff_cons_succ, coeff_cons_succ, hcoeff, coeff_divisionStep,
          BitVec.xor_comm (coeff m i)]
        simp [BitVec.xor_assoc]

theorem generateEC_zeroBytes (k r : Nat) : generateEC (zeroBytes k) r = zeroBytes r := by
  rw [generateEC, zeroBytes_length, divideTurns_zeroBytes_append]

/-- The codeword is a multiple of the generator, with a quotient as long as the data. -/
theorem exists_polyMultiply_buildGenerator_eq {data : List Byte} {r : Nat} (hr : 1 ≤ r) (hdata : data ≠ []) :
    ∃ q : List Byte, q.length = data.length ∧ polyMultiply q (buildGenerator r) = data ++ generateEC data r := by
  have hg := buildGenerator_eq_cons hr
  have hlen := buildGenerator_length hr
  obtain ⟨q, hq, hcoeff⟩ := exists_polyMultiply_eq_divideTurns (buildGenerator r).tail (k := data.length)
    (m := data ++ zeroBytes r) (by simp [hlen])
  rw [← hg] at hcoeff
  have hqne : q ≠ [] := by rintro rfl; exact hdata (List.eq_nil_of_length_eq_zero hq.symm)
  have hmul := polyMultiply_length hqne (buildGenerator_ne_nil hr)
  refine ⟨q, hq, eq_of_coeff_eq ?_ fun i => ?_⟩
  · rw [List.length_append, generateEC_length data hr]; omega
  · rw [hcoeff, ← generateEC]
    by_cases hi : i < data.length
    · simp [coeff_append_left, hi]
    · simp [coeff_append_right, Nat.le_of_not_lt hi]

/-! ## Linearity (R197) -/

theorem coeff_xorAll {p q : List Byte} (h : p.length = q.length) (k : Nat) :
    coeff (xorAll p q) k = coeff p k ^^^ coeff q k := by
  induction p generalizing q k with
  | nil => obtain rfl := List.eq_nil_of_length_eq_zero h.symm; exact BitVec.xor_self.symm
  | cons a p ih =>
    obtain _ | ⟨b, q⟩ := q
    · simp at h
    · cases k with
      | zero => rfl
      | succ k => exact ih (Nat.succ.inj h) k

theorem xorAll_length {p q : List Byte} (h : p.length = q.length) : (xorAll p q).length = p.length := by
  simp [xorAll, h]

theorem divisionStep_xorAll {gRest m n : List Byte} (c d : Byte) (hmn : m.length = n.length)
    (h : gRest.length ≤ m.length) :
    divisionStep gRest (c ^^^ d) (xorAll m n) = xorAll (divisionStep gRest c m) (divisionStep gRest d n) := by
  have hlen : (divisionStep gRest c m).length = (divisionStep gRest d n).length := by
    rw [divisionStep_length h, divisionStep_length (hmn ▸ h), hmn]
  refine eq_of_coeff_eq ?_ fun i => ?_
  · rw [xorAll_length hlen, divisionStep_length h, divisionStep_length (by rwa [xorAll_length hmn]), xorAll_length hmn]
  · simp only [coeff_xorAll hlen, coeff_divisionStep, coeff_xorAll hmn, xor_gfMul]
    ac_rfl

theorem divideTurns_xorAll {gRest : List Byte} {k : Nat} {m n : List Byte} (hmn : m.length = n.length)
    (h : k + gRest.length ≤ m.length) :
    divideTurns gRest k (xorAll m n) = xorAll (divideTurns gRest k m) (divideTurns gRest k n) := by
  induction k generalizing m n with
  | zero => rfl
  | succ k ih =>
    obtain _ | ⟨c, m⟩ := m
    · simp at h
    obtain _ | ⟨d, n⟩ := n
    · simp at hmn
    have hmn' : m.length = n.length := Nat.succ.inj hmn
    have hm : k + gRest.length ≤ m.length := by simp at h; omega
    have hgm : gRest.length ≤ m.length := by omega
    have hstep := divisionStep_length hgm c
    rw [divideTurns_succ_cons, divideTurns_succ_cons, ← ih, ← divisionStep_xorAll c d hmn' hgm]
    · rfl
    · rw [hstep, divisionStep_length (hmn' ▸ hgm), hmn']
    · rwa [hstep]

theorem generateEC_xorAll {a b : List Byte} {r : Nat} (hr : 1 ≤ r) (hab : a.length = b.length) :
    generateEC (xorAll a b) r = xorAll (generateEC a r) (generateEC b r) := by
  have hpad : xorAll a b ++ zeroBytes r = xorAll (a ++ zeroBytes r) (b ++ zeroBytes r) := by
    simp [xorAll, List.zipWith_append hab, zeroBytes]
  have hlen := buildGenerator_length hr
  rw [generateEC, hpad, xorAll_length hab, divideTurns_xorAll (by simp [hab]) (by simp [hlen]), generateEC,
    generateEC, hab]

/-! ## Syndromes (R194, R196) -/

theorem valueAtRoot_eq_xorSum (c : List Byte) (j : Nat) :
    valueAtRoot c j = xorSum c.length fun i => gfMul (coeff c i) (gfExp (j * (c.length - 1 - i))) := rfl

theorem evalPoly_eq_valueAtRoot (c : List Byte) (j : Nat) : evalPoly c (gfExp j) = valueAtRoot c j := by
  induction c with
  | nil => rfl
  | cons a p ih =>
    rw [evalPoly_cons, ih, valueAtRoot_eq_xorSum, valueAtRoot_eq_xorSum, List.length_cons, xorSum_succ]
    simp only [coeff_cons_zero, coeff_cons_succ, Nat.add_sub_cancel, Nat.sub_zero, Nat.sub_sub, Nat.add_comm 1]

theorem evalPoly_zeroBytes (n : Nat) (x : Byte) : evalPoly (zeroBytes n) x = 0 := by
  induction n with
  | zero => rfl
  | succ n ih => exact (evalPoly_zero_cons _ x).trans ih

theorem evalPoly_codeword (data : List Byte) {r j : Nat} (hr : 1 ≤ r) (hj : j < r) :
    evalPoly (data ++ generateEC data r) (gfExp j) = 0 := by
  by_cases hdata : data = []
  · subst hdata
    exact (congrArg (evalPoly · _) (generateEC_zeroBytes 0 r)).trans (evalPoly_zeroBytes r _)
  · obtain ⟨q, -, hq⟩ := exists_polyMultiply_buildGenerator_eq hr hdata
    rw [← hq, evalPoly_polyMultiply _ (buildGenerator_ne_nil hr), evalPoly_buildGenerator hr hj]
    exact gfMul_zero _

theorem syndromes_codeword (data : List Byte) {r : Nat} (hr : 1 ≤ r) :
    syndromes (data ++ generateEC data r) r = List.replicate r 0 :=
  List.eq_replicate_iff.mpr ⟨syndromes_length _ _, fun x hx => by
    obtain ⟨j, hj, rfl⟩ := List.mem_map.mp hx
    exact evalPoly_codeword data hr (List.mem_range.mp hj)⟩

/-! ## The statements on codewords -/

/-- Settles O40: a codeword is a multiple of the generator, which vanishes at the roots that syndromes takes. -/
theorem codewordsHaveZeroSyndromes : Obligations.CodewordsHaveZeroSyndromes :=
  ⟨evalPoly_eq_valueAtRoot, fun c _ => List.map_congr_left fun j _ => evalPoly_eq_valueAtRoot c j,
    fun data _ hr => syndromes_codeword data hr⟩

/-- Settles O41: the division leaves zeros as they are, adds a multiple of the generator, and is linear. -/
theorem codewordsAreTheRemainder : Obligations.CodewordsAreTheRemainder :=
  ⟨fun k r _ => generateEC_zeroBytes k r,
    fun data _ hr => ⟨generateEC_length data hr, exists_polyMultiply_buildGenerator_eq hr⟩,
    fun _ _ _ hr hab => generateEC_xorAll hr hab⟩

end Sys2Proof.Machine
end

section
/-! PROOFS (43_reed_solomon.md R200-R202). The Reed-Solomon commands: the next state of each with its degree in range,
and the fault outside it (O42, O43). -/

open Sys2Proof.Spec

namespace Sys2Proof.Machine

/-! ## The degree operand (R74) -/

theorem degreeOk_eq_false_of_outside {cfg : Config} {r : Nat} (h : r = 0 ∨ cfg.rsMaxEc < r) :
    degreeOk cfg r = false := by
  simp [degreeOk]; omega

theorem flagWord_all_syndromes (c : List Byte) (r : Nat) :
    flagWord ((syndromes c r).all fun x => x == 0) = if ∀ j, j < r → evalPoly c (gfExp j) = 0 then 1 else 0 := by
  simp [flagWord, syndromes]

/-! ## The outcome of each command -/

section
variable {r : Byte} {s : State}

theorem exec_rsGen_of_degreeOk (hs : s.fault = false) (hr : degreeOk s.cfg r.toNat = true) :
    exec (.rsGen r) s =
      .next ({ s.setBuf .gen (buildGenerator r.toNat) with genR := zextByte r }.setResNat (r.toNat + 1)) :=
  exec_of_done hs (if_pos hr)

theorem exec_rsEnc_of_degreeOk (hs : s.fault = false) (hr : degreeOk s.cfg r.toNat = true) :
    exec (.rsEnc r) s = .next ((s.setBuf .rsout (generateEC s.mem.rsin r.toNat)).setRes (zextByte r)) :=
  exec_of_done hs (if_pos hr)

theorem exec_rsSynd_of_degreeOk (hs : s.fault = false) (hr : degreeOk s.cfg r.toNat = true) :
    exec (.rsSynd r) s = .next ((s.setBuf .synd (syndromes s.mem.rsin r.toNat)).setRes
      (if ∀ j, j < r.toNat → evalPoly s.mem.rsin (gfExp j) = 0 then 1 else 0)) :=
  exec_of_done hs ((if_pos hr).trans (by rw [flagWord_all_syndromes]))

end

/-! ## The statements -/

/-- Settles O42: the degree's range decides, and each side has its one outcome. -/
theorem rsGenBuildsTheGenerator : Obligations.RsGenBuildsTheGenerator :=
  fun _ _ hs => ⟨fun hpos hle => exec_rsGen_of_degreeOk hs ((degreeOk_iff _ _).mpr ⟨hpos, hle⟩),
    fun hr => exec_of_illegal_operand hs (degreeOk_eq_false_of_outside hr)⟩

/-- Settles O43: the degree's range decides, and the syndromes are all 0 exactly when RES is 1. -/
theorem rsEncAndRsSyndFillTheirBuffer : Obligations.RsEncAndRsSyndFillTheirBuffer := by
  intro r s hs
  refine ⟨fun hpos hle => ?_, fun hr => ?_⟩
  · have hok := (degreeOk_iff s.cfg r.toNat).mpr ⟨hpos, hle⟩
    exact ⟨exec_rsEnc_of_degreeOk hs hok, exec_rsSynd_of_degreeOk hs hok⟩
  · have hbad := degreeOk_eq_false_of_outside hr
    exact ⟨exec_of_illegal_operand hs hbad, exec_of_illegal_operand hs hbad⟩

end Sys2Proof.Machine
end

section
/-! PROOFS (44_tables.md R220, R221, R227, R230; 46_assembler.md R284). What the tables give at each (v, l, m), the greatest
count that fits, and the version search over the capacities (O44, O45). -/

open Sys2Proof.Spec

namespace Sys2Proof

/-! ## The greatest count (R227) -/

/-- The payload grows with the count, and `longestPayload` is where it crosses the room there is. -/
theorem payloadBits_le_iff (m : Mode) (n bits : Nat) : payloadBits m n ≤ bits ↔ n ≤ longestPayload m bits := by
  cases m with
  | numeric => simp only [payloadBits, longestPayload]; split_ifs <;> omega
  | alnum => simp only [payloadBits, longestPayload]; split_ifs <;> omega
  | byte => simp only [payloadBits, longestPayload]; omega

theorem le_maxChars_iff {w d : Nat} (h : 4 + w ≤ 8 * d) (m : Mode) (n : Nat) :
    n ≤ maxChars m w d ↔ n < 2 ^ w ∧ 4 + w + payloadBits m n ≤ 8 * d := by
  have hindicator : n ≤ 2 ^ w - 1 ↔ n < 2 ^ w := Nat.le_sub_one_iff_lt (Nat.two_pow_pos w)
  have hroom : payloadBits m n ≤ 8 * d - (4 + w) ↔ 4 + w + payloadBits m n ≤ 8 * d := by omega
  rw [maxChars, le_min_iff, ← payloadBits_le_iff, hindicator, hroom]

/-! ## Lookups (R220, R221) -/

namespace Config

variable {cfg : Config} {v l n : Nat} {m : Mode} {p : Profile}

theorem profile?_eq_some_iff :
    cfg.profile? v l = some p ↔ 1 ≤ v ∧ ∃ row, cfg.ecProfile[v - 1]? = some row ∧ row[l]? = some p := by
  rw [Nat.one_le_iff_ne_zero]
  unfold profile?
  split
  case isTrue hv => simp [hv]
  case isFalse hv => cases cfg.ecProfile[v - 1]? <;> simp [hv]

theorem suppliedCapacity?_of_outside
    (h : v = 0 ∨ cfg.capacity[v - 1]? = none ∨ ∃ rows, cfg.capacity[v - 1]? = some rows ∧ rows[l]? = none) :
    cfg.suppliedCapacity? v l m = none := by
  unfold suppliedCapacity?
  rcases h with hv | hnone | ⟨rows, hrows, hnone⟩
  · rw [if_pos hv]
  · rw [hnone]; exact ite_self _
  · simp [hrows, hnone]

theorem suppliedCapacity?_of_row {rows : List CapacityRow} {row : CapacityRow} (hv : 1 ≤ v)
    (hrows : cfg.capacity[v - 1]? = some rows) (hrow : rows[l]? = some row) :
    cfg.suppliedCapacity? v l m = row.entry m := by
  simp [suppliedCapacity?, Nat.one_le_iff_ne_zero.mp hv, hrows, hrow]

theorem totalData_of_profile (h : cfg.profile? v l = some p) : cfg.totalData v l = p.totalData := by
  simp [totalData, h]

theorem capacityOf_of_supplied (h : cfg.suppliedCapacity? v l m = some n) : cfg.capacityOf v l m = n := by
  simp [capacityOf, h]

theorem capacityOf_of_not_supplied (h : cfg.suppliedCapacity? v l m = none) :
    cfg.capacityOf v l m = maxChars m (cfg.cciWidth (band v) m) (cfg.totalData v l) := by
  simp [capacityOf, h]

end Config

/-- Settles O44: `le_maxChars_iff` is both halves of "greatest", and each lookup has one lemma per case. -/
theorem maxCharsIsTheGreatestCount : Obligations.MaxCharsIsTheGreatestCount := by
  refine ⟨fun m w d h => ⟨(le_maxChars_iff h m _).mp le_rfl, fun n hw hd => (le_maxChars_iff h m n).mpr ⟨hw, hd⟩⟩,
    fun _ _ _ _ => Config.profile?_eq_some_iff, fun _ _ _ _ => Config.suppliedCapacity?_of_outside,
    fun _ _ _ _ _ hv hrows hrow => ?_, fun _ _ _ _ _ => Config.capacityOf_of_supplied, fun cfg v l m p hp hnone => ?_⟩
  · have hentry (m : Mode) := Config.suppliedCapacity?_of_row (m := m) hv hrows hrow
    exact ⟨hentry .numeric, hentry .alnum, hentry .byte⟩
  · rw [Config.capacityOf_of_not_supplied hnone, Config.totalData_of_profile hp]

/-! ## The version search (R284) -/

theorem mem_versions {v : Nat} : v ∈ versions ↔ 1 ≤ v ∧ v ≤ 40 := by
  simp only [versions, numVersions, List.mem_range'_1]; omega

namespace Machine

variable {cfg : Config} {m : Mode} {l n v : Nat}

theorem findVersion_eq_some_iff :
    findVersion cfg m l n = some v ↔
      1 ≤ v ∧ v ≤ 40 ∧ n ≤ cfg.capacityOf v l m ∧ ∀ u, 1 ≤ u → u < v → cfg.capacityOf u l m < n := by
  rw [findVersion, versions, List.find?_range'_eq_some, ← versions, mem_versions]
  simp only [Bool.not_eq_true', decide_eq_true_eq, decide_eq_false_iff_not, not_le]
  tauto

theorem findVersion_eq_none_iff :
    findVersion cfg m l n = none ↔ ∀ v, 1 ≤ v → v ≤ 40 → cfg.capacityOf v l m < n := by
  simp only [findVersion, List.find?_eq_none, mem_versions, and_imp, decide_eq_true_eq, not_le]

/-- A version that covers a count covers every smaller one, so the search for the smaller one stops no later (R230). -/
theorem findVersion_mono {n₁ n₂ v₂ : Nat} (hn : n₁ ≤ n₂) (h : findVersion cfg m l n₂ = some v₂) :
    ∃ v₁, findVersion cfg m l n₁ = some v₁ ∧ v₁ ≤ v₂ := by
  obtain ⟨hpos, hle, hcovers⟩ := findVersion_some h
  have hcovers₁ := hn.trans hcovers
  cases h₁ : findVersion cfg m l n₁ with
  | none => exact absurd (findVersion_eq_none_iff.mp h₁ v₂ hpos hle) hcovers₁.not_gt
  | some v₁ =>
    obtain ⟨_, _, _, hleast⟩ := findVersion_eq_some_iff.mp h₁
    exact ⟨v₁, rfl, not_lt.mp fun hlt => (hleast v₂ hpos hlt).not_ge hcovers₁⟩

/-- Settles O45: the search is List.find? over 1..40, and its least answer cannot grow as the count shrinks. -/
theorem versionSearchIsMinimalAndMonotonic : Obligations.VersionSearchIsMinimalAndMonotonic :=
  ⟨fun _ _ _ _ => ⟨fun _ => findVersion_eq_some_iff, findVersion_eq_none_iff⟩, fun _ _ _ _ _ _ => findVersion_mono⟩

end Machine

end Sys2Proof
end

section
/-! PROOFS (44_tables.md R226; 20_memory.md R53). A configuration is well-formed exactly when it passes the checks and the
model's two conditions of its own, and a step is refused exactly when it is not (O7, O60). -/

open Sys2Proof.Spec

namespace Sys2Proof

/-! ## The checks as propositions -/

section
variable {cfg : Config} {v l : Nat} {p : Profile}

theorem Profile.ok_iff :
    p.ok cfg = true ↔ 1 ≤ p.g1Blocks ∧ 1 ≤ p.g1Data ∧ (p.g2Blocks = 0 ∨ 1 ≤ p.g2Data) ∧ p.blocks ≤ 255 ∧
      1 ≤ p.ecPerBlock ∧ p.ecPerBlock ≤ cfg.rsMaxEc ∧ p.g1Blocks * p.g1Data + p.g2Blocks * p.g2Data = p.totalData := by
  simp only [Profile.ok, Bool.and_eq_true, Bool.or_eq_true, decide_eq_true_eq, and_assoc]

theorem Profile.fits_iff :
    p.fits cfg = true ↔ p.totalData ≤ cfg.maxData ∧ p.blocks * p.ecPerBlock ≤ cfg.maxEcall ∧
      p.totalData + p.blocks * p.ecPerBlock ≤ cfg.maxFinal := by
  simp only [Profile.fits, Bool.and_eq_true, decide_eq_true_eq, and_assoc]

theorem Config.boundsOk_iff :
    cfg.boundsOk = true ↔ 1 ≤ cfg.inMax ∧ 1 ≤ cfg.rsMaxMsg ∧ 1 ≤ cfg.rsMaxEc ∧ cfg.rsMaxEc ≤ 254 ∧
      8 * cfg.maxData ≤ cfg.bsMaxBits := by
  simp only [Config.boundsOk, Bool.and_eq_true, decide_eq_true_eq, and_assoc]

theorem Config.widthOk_iff :
    cfg.widthOk = true ↔ cfg.inMax < 2 ^ 32 ∧ cfg.rsMaxMsg < 2 ^ 32 ∧ cfg.bsMaxBits < 2 ^ 32 ∧ cfg.maxEcall < 2 ^ 32 ∧
      cfg.maxFinal < 2 ^ 32 := by
  simp only [Config.widthOk, Bool.and_eq_true, decide_eq_true_eq, and_assoc]

theorem Config.shapeOk_iff :
    cfg.shapeOk = true ↔ cfg.ecProfile.length = 40 ∧ ∀ row ∈ cfg.ecProfile, row.length = 4 := by
  simp only [Config.shapeOk, Bool.and_eq_true, decide_eq_true_eq, List.all_eq_true]
  rfl

theorem mem_modes (m : Mode) : m ∈ modes := by cases m <;> decide

theorem mem_levels : l ∈ levels ↔ l ≤ 3 := by
  simp only [levels, numLevels, List.mem_range]; omega

theorem Config.cciOk_iff :
    cfg.cciOk = true ↔ ∀ b, b ≤ 2 → ∀ m : Mode, 1 ≤ cfg.cciWidth b m ∧ cfg.cciWidth b m ≤ 32 := by
  have hband (b : Nat) : b ∈ [0, 1, 2] ↔ b ≤ 2 := by simp; omega
  simp only [Config.cciOk, List.all_eq_true, Bool.and_eq_true, decide_eq_true_eq, mem_modes, true_imp_iff, hband]

theorem Config.capacityFits_iff (hp : cfg.profile? v l = some p) (m : Mode) :
    cfg.capacityFits v l m = true ↔ cfg.capacityOf v l m < 2 ^ cfg.cciWidth (band v) m ∧
      4 + cfg.cciWidth (band v) m + payloadBits m (cfg.capacityOf v l m) ≤ 8 * p.totalData := by
  simp only [Config.capacityFits, Config.totalData_of_profile hp, Bool.and_eq_true, decide_eq_true_eq]

theorem Config.capacityOk_iff :
    cfg.capacityOk = true ↔ ∀ v l, 1 ≤ v → v ≤ 40 → l ≤ 3 → ∀ m, cfg.capacityFits v l m = true := by
  simp only [Config.capacityOk, List.all_eq_true, mem_modes, true_imp_iff, mem_versions, mem_levels, and_imp]
  exact forall_congr' fun v => ⟨fun h l hv hv' => h hv hv' l, fun h hv hv' l => h l hv hv'⟩

/-! ## The whole table -/

/-- In a table of the right shape the entries are those at v in 1..40 and l in 0..3. -/
theorem Config.profilesOk_iff (hshape : cfg.shapeOk = true) :
    cfg.profilesOk = true ↔
      ∀ v l p, 1 ≤ v → v ≤ 40 → l ≤ 3 → cfg.profile? v l = some p → p.ok cfg = true ∧ p.fits cfg = true := by
  obtain ⟨hversions, hlevels⟩ := Config.shapeOk_iff.mp hshape
  simp only [Config.profilesOk, List.all_eq_true, Bool.and_eq_true]
  constructor
  · intro h v l p _ _ _ hp
    obtain ⟨_, row, hrow, hentry⟩ := Config.profile?_eq_some_iff.mp hp
    exact h row (List.mem_of_getElem? hrow) p (List.mem_of_getElem? hentry)
  · intro h row hrow p hp
    obtain ⟨i, hi, hget⟩ := List.mem_iff_getElem.mp hrow
    obtain ⟨l, hl, hentry⟩ := List.mem_iff_getElem.mp hp
    have hlen := hlevels row hrow
    refine h (i + 1) l p (by omega) (by omega) (by omega) (Config.profile?_eq_some_iff.mpr ⟨by omega, row, ?_, ?_⟩)
    · exact List.getElem?_eq_some_iff.mpr ⟨hi, hget⟩
    · exact List.getElem?_eq_some_iff.mpr ⟨hl, hentry⟩

/-- The four checks of R226, by the model's own tests of them. -/
theorem passesChecks_iff :
    PassesChecks cfg ↔
      (∀ v l, 1 ≤ v → v ≤ 40 → l ≤ 3 → ∃ p, cfg.profile? v l = some p ∧ p.ok cfg = true ∧ p.fits cfg = true ∧
        ∀ m, cfg.capacityFits v l m = true) ∧
      cfg.cciOk = true ∧ cfg.boundsOk = true := by
  refine and_congr (forall₅_congr fun v l _ _ _ => exists_congr fun p => and_congr_right fun hp => ?_)
    (and_congr Config.cciOk_iff.symm Config.boundsOk_iff.symm)
  simp only [Profile.ok_iff, Profile.fits_iff, Config.capacityFits_iff hp, and_assoc]

theorem Config.passesChecks_of_wf (h : cfg.wf = true) : PassesChecks cfg := by
  obtain ⟨hbounds, _, _, _, hcci, hcapacity⟩ := Config.wf_cases h
  refine passesChecks_iff.mpr ⟨fun v l hv hv' hl => ?_, hcci, hbounds⟩
  obtain ⟨p, hp⟩ := Config.wf_profile_exists h hv hv' hl
  obtain ⟨hok, hfits⟩ := Config.wf_profile h hp
  exact ⟨p, hp, hok, hfits, Config.capacityOk_iff.mp hcapacity v l hv hv' hl⟩

/-- The shape is log entry 17's condition and the widths are log entry 7's. -/
theorem Config.wf_of_passesChecks (h : PassesChecks cfg) (hshape : cfg.shapeOk = true) (hwidth : cfg.widthOk = true) :
    cfg.wf = true := by
  obtain ⟨hentries, hcci, hbounds⟩ := passesChecks_iff.mp h
  have hprofiles : cfg.profilesOk = true := (Config.profilesOk_iff hshape).mpr fun v l p hv hv' hl hp => by
    obtain ⟨q, hq, hok, hfits, _⟩ := hentries v l hv hv' hl
    obtain rfl : q = p := Option.some.inj (hq.symm.trans hp)
    exact ⟨hok, hfits⟩
  have hcapacity : cfg.capacityOk = true := Config.capacityOk_iff.mpr fun v l hv hv' hl => by
    obtain ⟨_, _, _, _, hcap⟩ := hentries v l hv hv' hl
    exact hcap
  simp only [Config.wf, hbounds, hwidth, hshape, hprofiles, hcci, hcapacity, Bool.and_self]

end

/-! ## What is refused -/

namespace Machine

variable {s : State}

theorem step_of_not_wf (h : s.cfg.wf = false) : step s = .refused .malformedConfiguration := by simp [step, h]

theorem commit_ne_refused (s : State) (e : Effect) (why : Refusal) : commit s e ≠ .refused why := by
  cases e <;> nofun

theorem gated_ne_refused (s : State) (e : Effect) (why : Refusal) : gated s e ≠ .refused why := by
  cases hf : s.fault with
  | true => rw [gated_of_fault hf]; nofun
  | false => rw [gated_of_ok hf]; exact commit_ne_refused s e why

theorem ungated_ne_refused (s : State) (e : Effect) (why : Refusal) : ungated s e ≠ .refused why := by
  cases hf : s.fault with
  | true => cases e <;> simp [ungated, hf]
  | false => rw [ungated_of_ok hf]; exact commit_ne_refused s e why

theorem exec_ne_refused (i : Instr) (s : State) (why : Refusal) : exec i s ≠ .refused why := by
  rw [exec_eq]
  split
  · exact ungated_ne_refused s _ why
  · exact gated_ne_refused s _ why

theorem step_ne_refused_of_wf (h : s.cfg.wf = true) (why : Refusal) : step s ≠ .refused why := by
  match hin : s.inbox with
  | [] => rw [step_of_silent_host h hin]; nofun
  | .resetInput :: rest => rw [step_of_resetInput h hin]; nofun
  | .word w :: rest =>
    match hw : decode w with
    | .illegal reason => rw [step_of_illegal h hin hw]; exact gated_ne_refused _ _ why
    | .command i => rw [step_of_command h hin hw]; exact exec_ne_refused i _ why

/-- Settles O7: a step that is not refused has a well-formed configuration, and that one passes the checks. -/
theorem malformedConfigurationsAreRefused : Obligations.MalformedConfigurationsAreRefused := fun _ h =>
  Config.passesChecks_of_wf (Bool.of_not_eq_false fun hcfg => h (step_of_not_wf hcfg))

/-- Settles O60: the checks and the model's two conditions make the configuration well-formed, and nothing else is refused. -/
theorem configurationsThatPassAreRun : Obligations.ConfigurationsThatPassAreRun := by
  intro s hchecks hversions hlevels hin hmsg hbits hecall hfinal
  have hwf : s.cfg.wf = true := Config.wf_of_passesChecks hchecks (Config.shapeOk_iff.mpr ⟨hversions, hlevels⟩)
    (Config.widthOk_iff.mpr ⟨hin, hmsg, hbits, hecall, hfinal⟩)
  exact ⟨hwf, step_ne_refused_of_wf hwf⟩

end Machine

end Sys2Proof
end

section
/-! PROOFS (45_segment.md R250, R252). The characters of each mode against the spec's list of 45, and the least index of a
byte that is none (O46, O47). -/

open Sys2Proof.Spec

namespace Sys2Proof.Machine

/-! ## Characters (R250) -/

/-- The model's ranges and signs give the place in the list of 45, compared over the 256 bytes. -/
theorem alnumValue_eq_idxOf? (c : Byte) : alnumValue c = alphabet.idxOf? c.toNat := by
  revert c; decide

theorem alphabet_nodup : alphabet.Nodup := by decide

theorem alnumValue_eq_some_iff (c : Byte) (k : Nat) : alnumValue c = some k ↔ alphabet[k]? = some c.toNat := by
  rw [alnumValue_eq_idxOf?, List.idxOf?_eq_some_iff, List.getElem?_eq_some_iff]
  refine exists_congr fun hk => and_iff_left_of_imp fun hc j hj he => hj.ne ?_
  exact (alphabet_nodup.getElem_inj_iff).mp (he.trans hc.symm)

theorem numericValue_eq_some_iff (c : Byte) (k : Nat) : numericValue c = some k ↔ k ≤ 9 ∧ c.toNat = 0x30 + k := by
  unfold numericValue
  split
  · rw [Option.some.injEq]; omega
  · simp only [reduceCtorEq, false_iff]; omega

/-- Settles O46: each value function has its `↔`, and `isCharOf` is defined by them. -/
theorem characterValuesAreTheTables : Obligations.CharacterValuesAreTheTables :=
  ⟨alnumValue_eq_some_iff, numericValue_eq_some_iff, fun _ => ⟨rfl, rfl, rfl⟩⟩

theorem isCharOf_eq_isChar (m : Mode) (c : Byte) : isCharOf m c = isChar m.code c := by
  cases m with
  | numeric =>
    simp only [isCharOf, numericValue, isChar, Mode.code, isDigit]
    split <;> simp_all
  | alnum =>
    simp only [isCharOf, alnumValue_eq_idxOf?, isChar, Mode.code]
    rw [Bool.eq_iff_iff, List.isSome_idxOf?, List.contains_iff_mem]
  | byte => rfl

/-! ## The least invalid index (R252) -/

theorem firstInvalid_eq_findIdx? (m : Mode) (t : List Byte) :
    firstInvalid m t = t.findIdx? fun c => !isChar m.code c := by
  induction t with
  | nil => rfl
  | cons c t ih =>
    rw [firstInvalid, List.findIdx?_cons, isCharOf_eq_isChar, ih]
    cases isChar m.code c <;> rfl

theorem firstInvalid_eq_some_iff {m : Mode} {t : List Byte} {p : Nat} :
    firstInvalid m t = some p ↔
      (∃ c, t[p]? = some c ∧ isChar m.code c = false) ∧ ∀ q c, q < p → t[q]? = some c → isChar m.code c = true := by
  rw [firstInvalid_eq_findIdx?, List.findIdx?_eq_some_iff_getElem]
  simp only [Bool.not_eq_true', Bool.not_eq_false, List.getElem?_eq_some_iff]
  constructor
  · rintro ⟨hp, hc, hbefore⟩
    refine ⟨⟨_, ⟨hp, rfl⟩, hc⟩, ?_⟩
    rintro q _ hq ⟨_, rfl⟩
    exact hbefore q hq
  · rintro ⟨⟨_, ⟨hp, rfl⟩, hc⟩, hbefore⟩
    exact ⟨hp, hc, fun q hq => hbefore q _ hq ⟨hq.trans hp, rfl⟩⟩

theorem representable_eq_all (m : Mode) (t : List Byte) : representable m t = t.all (isChar m.code) := by
  rw [representable, firstInvalid_eq_findIdx?, List.findIdx?_isNone]
  simp

theorem representable_byte (t : List Byte) : representable .byte t = true := by
  rw [representable_eq_all]
  exact List.all_eq_true.mpr fun _ _ => rfl

theorem firstInvalid_eq_none_iff {m : Mode} {t : List Byte} : firstInvalid m t = none ↔ representable m t = true :=
  Option.isNone_iff_eq_none.symm

/-- Settles O47: the search is List.findIdx? for a byte that is no character, and byte mode has no such byte. -/
theorem firstInvalidIsTheLeastIndex : Obligations.FirstInvalidIsTheLeastIndex :=
  ⟨fun _ _ _ => firstInvalid_eq_some_iff, fun m t => by rw [representable_eq_all, List.all_eq_true],
    fun t => firstInvalid_eq_none_iff.mpr (representable_byte t), fun _ => rfl⟩

end Sys2Proof.Machine
end

section
/-! PROOFS (00_scope.md R9; 45_segment.md R253-R256). The payload of a text as its groups, and its length (O48). -/

open Sys2Proof.Spec

namespace Sys2Proof

theorem bitsOf_eq_map_testBit (v n : Nat) : bitsOf v n = (List.range n).map fun k => v.testBit (n - 1 - k) := by
  induction n with
  | zero => rfl
  | succ n ih =>
    rw [bitsOf, ih, List.range_succ_eq_map, List.map_cons, List.map_map]
    congr 1
    exact List.map_congr_left fun k _ => by simp only [Function.comp_apply]; congr 1; omega

/-- The first of n + 1 groups, and the others counted from the second one on. -/
theorem flatMap_range_succ {α : Type} (f : Nat → List α) (n : Nat) :
    (List.range (n + 1)).flatMap f = f 0 ++ (List.range n).flatMap fun k => f (k + 1) := by
  rw [List.range_succ_eq_map, List.flatMap_cons, List.flatMap_map]

namespace Machine

/-! ## Groups (R253, R254, R255) -/

/-- One turn takes three digits, so what follows is the groups of the rest (R253). -/
theorem packNumeric_eq_groups (t : List Byte) :
    packNumeric t =
      ((List.range (t.length / 3)).flatMap fun g =>
        bitsOf (100 * digit (t.getD (3 * g) 0) + 10 * digit (t.getD (3 * g + 1) 0) + digit (t.getD (3 * g + 2) 0)) 10) ++
      (if t.length % 3 = 2 then
        bitsOf (10 * digit (t.getD (3 * (t.length / 3)) 0) + digit (t.getD (3 * (t.length / 3) + 1) 0)) 7
      else if t.length % 3 = 1 then bitsOf (digit (t.getD (3 * (t.length / 3)) 0)) 4
      else []) := by
  induction t using packNumeric.induct with
  | case1 => rfl
  | case2 c => simp [packNumeric]
  | case3 c d => simp [packNumeric]
  | case4 c d e t ih =>
    have hdiv : (t.length + 3) / 3 = t.length / 3 + 1 := by omega
    have hmod : (t.length + 3) % 3 = t.length % 3 := by omega
    simp [packNumeric, ih, hdiv, hmod, flatMap_range_succ, Nat.mul_succ]

/-- The value of a character of the set is its place in the list (R250). -/
theorem alnum_eq_idxOf {c : Byte} (h : alphabet.contains c.toNat = true) : alnum c = alphabet.idxOf c.toNat := by
  obtain ⟨k, hk⟩ := Option.isSome_iff_exists.mp (List.isSome_idxOf?.mpr (List.contains_iff_mem.mp h))
  rw [alnum, alnumValue_eq_idxOf?, List.idxOf_eq_getD_idxOf?, hk]
  rfl

/-- One turn takes two characters, so what follows is the groups of the rest (R254). -/
theorem packAlnum_eq_groups (t : List Byte) (h : ∀ c ∈ t, alphabet.contains c.toNat = true) :
    packAlnum t =
      ((List.range (t.length / 2)).flatMap fun p =>
        bitsOf (45 * alphabet.idxOf (t.getD (2 * p) 0).toNat + alphabet.idxOf (t.getD (2 * p + 1) 0).toNat) 11) ++
      (if t.length % 2 = 1 then bitsOf (alphabet.idxOf (t.getD (2 * (t.length / 2)) 0).toNat) 6 else []) := by
  induction t using packAlnum.induct with
  | case1 => rfl
  | case2 c => simp [packAlnum, alnum_eq_idxOf (h c (by simp))]
  | case3 c d t ih =>
    simp only [List.forall_mem_cons] at h
    obtain ⟨hc, hd, ht⟩ := h
    have hdiv : (t.length + 2) / 2 = t.length / 2 + 1 := by omega
    have hmod : (t.length + 2) % 2 = t.length % 2 := by omega
    simp [packAlnum, alnum_eq_idxOf hc, alnum_eq_idxOf hd, ih ht, hdiv, hmod, flatMap_range_succ, Nat.mul_succ]

theorem packByteMode_eq_flatMap (t : List Byte) : packByteMode t = t.flatMap fun c => bitsOf c.toNat 8 := by
  induction t with
  | nil => rfl
  | cons c t ih => rw [packByteMode, ih, List.flatMap_cons]

/-! ## Lengths (R256) -/

theorem payloadBits_numeric_add_three (n : Nat) : payloadBits .numeric (n + 3) = 10 + payloadBits .numeric n := by
  have hmod : (n + 3) % 3 = n % 3 := by omega
  simp only [payloadBits, hmod]
  omega

theorem payloadBits_alnum_add_two (n : Nat) : payloadBits .alnum (n + 2) = 11 + payloadBits .alnum n := by
  simp only [payloadBits]; omega

theorem packNumeric_length (t : List Byte) : (packNumeric t).length = payloadBits .numeric t.length := by
  induction t using packNumeric.induct with
  | case1 => rfl
  | case2 | case3 => simp [packNumeric, payloadBits]
  | case4 c d e t ih =>
    rw [packNumeric, List.length_append, bitsOf_length, ih]
    exact (payloadBits_numeric_add_three _).symm

theorem packAlnum_length (t : List Byte) : (packAlnum t).length = payloadBits .alnum t.length := by
  induction t using packAlnum.induct with
  | case1 => rfl
  | case2 => simp [packAlnum, payloadBits]
  | case3 c d t ih =>
    rw [packAlnum, List.length_append, bitsOf_length, ih]
    exact (payloadBits_alnum_add_two _).symm

theorem packByteMode_length (t : List Byte) : (packByteMode t).length = payloadBits .byte t.length := by
  induction t with
  | nil => rfl
  | cons c t ih =>
    simp only [packByteMode, List.length_append, bitsOf_length, ih, payloadBits, List.length_cons]
    omega

@[simp] theorem payload_length (m : Mode) (t : List Byte) : (payload m t).length = payloadBits m t.length := by
  cases m with
  | numeric => exact packNumeric_length t
  | alnum => exact packAlnum_length t
  | byte => exact packByteMode_length t

theorem payloadBits_numeric_eq_getD (n : Nat) :
    payloadBits .numeric n = 10 * (n / 3) + [0, 4, 7].getD (n % 3) 0 := by
  have hmod : n % 3 < 3 := Nat.mod_lt _ (by decide)
  rw [payloadBits]
  interval_cases n % 3 <;> rfl

/-- Settles O48: each packer is its groups by induction over its own turns, and `payload_length` is every length. -/
theorem payloadsAreTheirGroups : Obligations.PayloadsAreTheirGroups := by
  refine ⟨bitsOf_eq_map_testBit, fun t => ⟨packNumeric_eq_groups t, fun ht => ?_, packByteMode_eq_flatMap t,
    (payload_length .numeric t).trans (payloadBits_numeric_eq_getD _), payload_length .alnum t, payload_length .byte t,
    fun m => payload_length m t⟩⟩
  have hlast (hodd : t.length % 2 = 1) : t.length - 1 = 2 * (t.length / 2) := by omega
  exact (packAlnum_eq_groups t ht).trans (congrArg _ (ite_congr rfl (fun hodd => by rw [hlast hodd]) fun _ => rfl))

end Machine

end Sys2Proof
end

section
/-! PROOFS (45_segment.md R257, R260-R263; 30_encoding.md R74). The segment commands: the next state of each where its checks
pass and where they fail (O49, O50). -/

open Sys2Proof.Spec

namespace Sys2Proof

theorem Mode.ofCode?_eq_some_iff {n : Nat} {m : Mode} : Mode.ofCode? n = some m ↔ n = m.code := by
  constructor
  · intro h
    unfold Mode.ofCode? at h
    split at h <;> cases h <;> rfl
  · rintro rfl
    exact m.ofCode?_code

theorem Mode.exists_code_eq {n : Nat} (h : n ≤ 2) : ∃ m : Mode, n = m.code :=
  match n, h with
  | 0, _ => ⟨.numeric, rfl⟩
  | 1, _ => ⟨.alnum, rfl⟩
  | 2, _ => ⟨.byte, rfl⟩

end Sys2Proof

namespace Sys2Proof.Machine

/-- The first of the three modes that accepts every byte (R257). -/
theorem autoMode_eq (t : List Byte) :
    autoMode t = if t.all isDigit then .numeric else if t.all (isChar 1) then .alnum else .byte := by
  rw [autoMode, representable_eq_all, representable_eq_all]
  rfl

section
variable {code : Byte} {m : Mode} {s : State}

/-! ## The outcome of each command, check by check -/

theorem exec_segCheck_of_some (hs : s.fault = false) (hm : Mode.ofCode? code.toNat = some m) :
    exec (.segCheck code) s = .next (s.setRes (flagWord (representable m s.mem.inbuf))) :=
  exec_of_done hs (by simp [effectOf, segCheckEffect, hm])

theorem exec_segCount_of_some (hs : s.fault = false) (hm : Mode.ofCode? code.toNat = some m) :
    exec (.segCount code) s = .next (s.setResNat s.mem.inbuf.length) :=
  exec_of_done hs (by simp [effectOf, segCountEffect, hm])

theorem exec_segAuto (hs : s.fault = false) :
    exec .segAuto s = .next (s.setResNat (autoMode s.mem.inbuf).code) :=
  exec_of_done hs rfl

theorem exec_segWrite_of_room (hs : s.fault = false) (hm : Mode.ofCode? code.toNat = some m)
    (hrep : representable m s.mem.inbuf = true)
    (hroom : s.bs.length + (payload m s.mem.inbuf).length ≤ s.cfg.bsMaxBits) :
    exec (.segWrite code) s =
      .next ((s.setStream (s.bs ++ payload m s.mem.inbuf)).setResNat (payload m s.mem.inbuf).length) :=
  exec_of_done hs (by
    simp [effectOf, segWriteEffect, hm, firstInvalid_eq_none_iff.mpr hrep, appendBits_of_room hroom])

theorem exec_segWrite_of_full (hs : s.fault = false) (hm : Mode.ofCode? code.toNat = some m)
    (hrep : representable m s.mem.inbuf = true)
    (hfull : s.cfg.bsMaxBits < s.bs.length + (payload m s.mem.inbuf).length) :
    exec (.segWrite code) s = .next (recordFault .bufferOverflow 5 s) :=
  exec_of_raise hs (by
    simp [effectOf, segWriteEffect, hm, firstInvalid_eq_none_iff.mpr hrep, appendBits_of_full hfull])

theorem exec_segWrite_of_invalid {p : Nat} (hs : s.fault = false) (hm : Mode.ofCode? code.toNat = some m)
    (hp : firstInvalid m s.mem.inbuf = some p) :
    exec (.segWrite code) s = .next (recordFault .invalidCharacter (BitVec.ofNat 32 p) s) :=
  exec_of_raise hs (by simp [effectOf, segWriteEffect, hm, hp])

theorem modeCode_eq_false_of_ge (h : 3 ≤ code.toNat) : Operand.modeCode code = false := decide_eq_false (by omega)

end

/-! ## The statements -/

/-- Settles O49: a code up to 2 names a mode, whose test of INBUF is that of every byte; any other code is illegal. -/
theorem segmentTestsAnswer : Obligations.SegmentTestsAnswer := by
  intro code s hs
  refine ⟨fun hcode => ?_, fun hcode => ?_, ?_⟩
  · obtain ⟨m, hm⟩ := Mode.exists_code_eq hcode
    have hmode := Mode.ofCode?_eq_some_iff.mpr hm
    refine ⟨?_, exec_segCount_of_some hs hmode⟩
    rw [exec_segCheck_of_some hs hmode, representable_eq_all, hm]
    rfl
  · have hbad := modeCode_eq_false_of_ge hcode
    exact ⟨exec_of_illegal_operand hs hbad, exec_of_illegal_operand hs hbad⟩
  · have hcode : BitVec.ofNat 32 (autoMode s.mem.inbuf).code =
        if s.mem.inbuf.all isDigit then 0 else if s.mem.inbuf.all (isChar 1) then 1 else 2 := by
      rw [autoMode_eq]
      split_ifs <;> rfl
    rw [exec_segAuto hs, ← hcode]
    rfl

/-- Settles O50: the code names a mode, then INBUF's first invalid byte decides, then the room. -/
theorem segWriteAppendsThePayload : Obligations.SegWriteAppendsThePayload := by
  refine ⟨rfl, fun _ _ => Mode.ofCode?_eq_some_iff,
    fun _ _ hs hcode => exec_of_illegal_operand hs (modeCode_eq_false_of_ge hcode), fun code m s hs hm =>
      ⟨fun hrep hroom => ?_, exec_segWrite_of_full hs hm, fun _ => exec_segWrite_of_invalid hs hm⟩⟩
  rw [exec_segWrite_of_room hs hm hrep hroom, ← List.length_append]
  rfl

end Sys2Proof.Machine
end

section
/-! PROOFS (46_assembler.md R285; 44_tables.md R222-R225). The parts of the data bitstream (O51). -/

open Sys2Proof.Spec

namespace Sys2Proof.Machine

section
variable {cfg : Config} {m : Mode} {v d n : Nat} {t : List Byte} {bits : List Bool}

theorem headerAndPayload_length (cfg : Config) (m : Mode) (v n : Nat) (t : List Byte) :
    (headerAndPayload cfg m v n t).length = 4 + cfg.cciWidth (band v) m + (payload m t).length := by
  simp only [headerAndPayload, List.length_append, bitsOf_length]

theorem assembleData_eq_none_iff :
    assembleData cfg m v d n t = none ↔ 8 * d < 4 + cfg.cciWidth (band v) m + (payload m t).length := by
  rw [assembleData, headerAndPayload_length]
  simp

theorem assembleData_eq_some (h : assembleData cfg m v d n t = some bits) :
    bits = padToCapacity cfg (8 * d) (padToByte (addTerminator (8 * d) (headerAndPayload cfg m v n t))) := by
  unfold assembleData at h
  split at h
  · cases h
  · exact (Option.some.inj h).symm

/-- The terminator and the bits to the byte boundary are zero bits in one row. -/
theorem padToByte_addTerminator {cap k z : Nat} (hk : k = min 4 (cap - bits.length))
    (hz : z = (8 - (bits.length + k) % 8) % 8) :
    padToByte (addTerminator cap bits) = bits ++ List.replicate (k + z) false := by
  rw [addTerminator, ← hk, padToByte, List.length_append, zeroBits_length, ← hz, List.append_assoc, zeroBits, zeroBits,
    List.replicate_append_replicate]

theorem padBytes_eq_flatMap (cfg : Config) (count k : Nat) :
    padBytes cfg count k =
      (List.range count).flatMap fun j => bitsOf (if (k + j) % 2 = 0 then cfg.pad0 else cfg.pad1).toNat 8 := by
  induction count generalizing k with
  | zero => rfl
  | succ count ih =>
    rw [padBytes, ih, flatMap_range_succ]
    simp only [Nat.add_zero, Nat.add_assoc, Nat.add_comm 1]

theorem assembleData_parts (h : assembleData cfg m v d n t = some bits) :
    ∃ k z c, k = min 4 (8 * d - (4 + cfg.cciWidth (band v) m + (payload m t).length)) ∧ z < 8 ∧
      (4 + cfg.cciWidth (band v) m + (payload m t).length + k + z) % 8 = 0 ∧
      bits = bitsOf (cfg.modeInd m).toNat 4 ++ bitsOf n (cfg.cciWidth (band v) m) ++ payload m t ++
        List.replicate (k + z) false ++
        (List.range c).flatMap fun j => bitsOf (if j % 2 = 0 then cfg.pad0 else cfg.pad1).toNat 8 := by
  rw [assembleData_eq_some h, ← headerAndPayload_length cfg m v n t, padToByte_addTerminator rfl rfl, padToCapacity,
    padBytes_eq_flatMap]
  simp only [Nat.zero_add]
  exact ⟨_, _, _, rfl, Nat.mod_lt _ (by decide), by omega, rfl⟩

theorem band_eq (v : Nat) :
    (1 ≤ v → v ≤ 9 → band v = 0) ∧ (10 ≤ v → v ≤ 26 → band v = 1) ∧ (27 ≤ v → v ≤ 40 → band v = 2) := by
  unfold band
  split_ifs <;> omega

end

/-- Settles O51: the bands are `band_eq`, the table values are read off, and the stream is `assembleData_parts`. -/
theorem dataStreamHasItsParts : Obligations.DataStreamHasItsParts :=
  ⟨band_eq, fun _ => ⟨rfl, rfl, rfl, rfl⟩, rfl, rfl, rfl, rfl, rfl, fun _ _ _ _ _ _ =>
    ⟨assembleData_eq_none_iff, fun _ h => ⟨assembleData_length h, assembleData_parts h⟩⟩⟩

end Sys2Proof.Machine
end

section
/-! PROOFS (46_assembler.md R286, R287). The blocks and their interleaving (O52). -/

open Sys2Proof.Spec

namespace Sys2Proof.Machine

/-! ## Splitting (R286) -/

theorem takeBlocks_flatten_eq_take (count size : Nat) (data : List Byte) :
    (takeBlocks count size data).flatten = data.take (count * size) := by
  induction count generalizing data with
  | zero => simp [takeBlocks]
  | succ count ih => rw [takeBlocks, List.flatten_cons, ih, Nat.succ_mul, Nat.add_comm, List.take_add]

theorem takeBlocks_map_length {count size : Nat} {data : List Byte} (h : count * size ≤ data.length) :
    (takeBlocks count size data).map List.length = List.replicate count size := by
  induction count generalizing data with
  | zero => rfl
  | succ count ih =>
    rw [Nat.succ_mul] at h
    have hrest : count * size ≤ (data.drop size).length := by rw [List.length_drop]; omega
    rw [takeBlocks, List.map_cons, ih hrest, List.length_take, min_eq_left (by omega), List.replicate_succ]

section
variable {p : Profile} {data : List Byte}

theorem splitBlocks_flatten_eq (h : data.length = p.g1Blocks * p.g1Data + p.g2Blocks * p.g2Data) :
    (splitBlocks p data).flatten = data := by
  have hrest : (data.drop (p.g1Blocks * p.g1Data)).length ≤ p.g2Blocks * p.g2Data := by rw [List.length_drop]; omega
  rw [splitBlocks, List.flatten_append, takeBlocks_flatten_eq_take, takeBlocks_flatten_eq_take,
    List.take_of_length_le hrest, List.take_append_drop]

theorem splitBlocks_map_length (h : data.length = p.g1Blocks * p.g1Data + p.g2Blocks * p.g2Data) :
    (splitBlocks p data).map List.length =
      List.replicate p.g1Blocks p.g1Data ++ List.replicate p.g2Blocks p.g2Data := by
  rw [splitBlocks, List.map_append, takeBlocks_map_length (by omega),
    takeBlocks_map_length (by rw [List.length_drop]; omega)]

end

/-! ## Interleaving (R287) -/

section
variable {blocks : List (List Byte)}

theorem longest_map_tail (blocks : List (List Byte)) : longest (blocks.map List.tail) = longest blocks - 1 := by
  induction blocks with
  | nil => rfl
  | cons b bs ih => simp only [List.map_cons, longest, ih, List.length_tail]; omega

theorem longest_eq_zero_iff : longest blocks = 0 ↔ ∀ block ∈ blocks, block = [] := by
  induction blocks with
  | nil => simp [longest]
  | cons b bs ih => simp [longest, ih]

theorem interleave_of_forall_nil (h : ∀ block ∈ blocks, block = []) : interleave blocks = [] := by
  rw [interleave, longest_eq_zero_iff.mpr h]
  rfl

/-- The first turn takes the first bytes, and each later turn is one of the rests. -/
theorem interleave_eq_heads_append_tails (h : ∃ block ∈ blocks, block ≠ []) :
    interleave blocks = blocks.filterMap List.head? ++ interleave (blocks.map List.tail) := by
  have hpos : longest blocks ≠ 0 := by rw [Ne, longest_eq_zero_iff]; push Not; exact h
  obtain ⟨n, hn⟩ := Nat.exists_eq_succ_of_ne_zero hpos
  rw [interleave, interleave, longest_map_tail, hn, flatMap_range_succ]
  simp [List.filterMap_map, List.head?_eq_getElem?]

/-- Each block is its first byte, if it has one, and its rest. -/
theorem heads_append_tails_perm (blocks : List (List Byte)) :
    (blocks.filterMap List.head? ++ (blocks.map List.tail).flatten).Perm blocks.flatten := by
  induction blocks with
  | nil => rfl
  | cons b bs ih =>
    cases b with
    | nil => exact ih
    | cons x xs =>
      have hmove := List.perm_append_comm_assoc (bs.filterMap List.head?) xs (bs.map List.tail).flatten
      simpa using hmove.trans (ih.append_left xs)

theorem interleave_perm_flatten (blocks : List (List Byte)) : (interleave blocks).Perm blocks.flatten := by
  induction hn : longest blocks generalizing blocks with
  | zero =>
    have hnil := longest_eq_zero_iff.mp hn
    rw [interleave_of_forall_nil hnil, List.flatten_eq_nil_iff.mpr hnil]
  | succ n ih =>
    have hsome : ∃ block ∈ blocks, block ≠ [] := by
      by_contra hall
      push Not at hall
      simp [longest_eq_zero_iff.mpr hall] at hn
    have hrests := ih (blocks.map List.tail) (by rw [longest_map_tail, hn]; rfl)
    rw [interleave_eq_heads_append_tails hsome]
    exact (hrests.append_left _).trans (heads_append_tails_perm blocks)

theorem interleave_singleton (block : List Byte) : interleave [block] = block := by
  induction block with
  | nil => rfl
  | cons b bs ih =>
    rw [interleave_eq_heads_append_tails ⟨b :: bs, by simp, by simp⟩]
    simpa using ih

end

/-- Settles O52: the split is take and drop, and the interleaving is its first turn followed by that of the rests. -/
theorem blocksSplitAndInterleave : Obligations.BlocksSplitAndInterleave :=
  ⟨fun _ _ h => ⟨splitBlocks_flatten_eq h, splitBlocks_map_length h⟩,
    fun blocks => ⟨interleave_eq_heads_append_tails, interleave_of_forall_nil, interleave_perm_flatten blocks⟩,
    interleave_singleton⟩

end Sys2Proof.Machine
end

section
/-! PROOFS (46_assembler.md R290-R293; 60_exceptions.md R402, R405, R406). The stages of the assembler check by check, and
ASM_ENCODE as the three of them (O53 to O58). -/

open Sys2Proof.Spec

namespace Sys2Proof.Machine

/-- The mode that a choice stands for on a text (R257). -/
def ModeChoice.mode (t : List Byte) : ModeChoice → Mode
  | .auto => autoMode t
  | .explicit m => m

theorem requestedMode_eq (a : Byte) (t : List Byte) :
    requestedMode a t = (ModeChoice.ofCode? a.toNat).map (ModeChoice.mode t) := by
  by_cases hauto : a = 0xFF
  · subst hauto
    exact congrArg some (autoMode_eq t).symm
  have hexplicit : ∀ a : Byte, a ≠ 0xFF → ModeChoice.ofCode? a.toNat =
      if a = 0 then some (.explicit .numeric) else if a = 1 then some (.explicit .alnum)
      else if a = 2 then some (.explicit .byte) else none := by decide
  rw [requestedMode, if_neg hauto, hexplicit a hauto]
  split_ifs <;> rfl

section
variable {a l : Byte} {m : Mode} {v : Nat} {p : Profile} {bits : List Bool} {i : Instr} {s t u : State}

/-! ## ASM_SELECT, check by check (R290, R405) -/

theorem selectStage_of_bad_mode (h : requestedMode a s.mem.inbuf = none) :
    selectStage a l s = .raise .invalidConfiguration (zextByte a) := by
  rw [requestedMode_eq, Option.map_eq_none_iff] at h
  rw [selectStage, h]

theorem exists_choice_of_requestedMode (h : requestedMode a s.mem.inbuf = some m) :
    ∃ choice, ModeChoice.ofCode? a.toNat = some choice ∧ choice.mode s.mem.inbuf = m := by
  rwa [requestedMode_eq, Option.map_eq_some_iff] at h

theorem selectStage_of_bad_level (h : requestedMode a s.mem.inbuf = some m) (hl : 4 ≤ l.toNat) :
    selectStage a l s = .raise .invalidConfiguration (zextByte l) := by
  obtain ⟨choice, hchoice, _⟩ := exists_choice_of_requestedMode h
  have hlevel : ¬ l.toNat ≤ 3 := by omega
  simp [selectStage, hchoice, levelOk, hlevel]

/-- With a mode and a level, the text and then the version decide. -/
theorem selectStage_of_legal (h : requestedMode a s.mem.inbuf = some m) (hl : l.toNat ≤ 3) :
    selectStage a l s =
      match firstInvalid m s.mem.inbuf with
      | some pos => .raise .invalidCharacter (BitVec.ofNat 32 pos)
      | none =>
        match findVersion s.cfg m l.toNat s.mem.inbuf.length with
        | none => .raise .capacityExceeded (BitVec.ofNat 32 s.mem.inbuf.length)
        | some v => .done (selected s m l v) := by
  obtain ⟨choice, hchoice, rfl⟩ := exists_choice_of_requestedMode h
  rw [selectStage, hchoice]
  simp only [levelOk, hl, decide_true, if_true]
  cases choice <;> rfl

theorem Selects.selectStage_eq (h : Selects s m l v) (hreq : requestedMode a s.mem.inbuf = some m) :
    selectStage a l s = .done (selected s m l v) := by
  rw [selectStage_of_legal hreq h.level, h.text, h.version]

/-- ASM_SELECT and ASM_ENCODE both record a fault of the first stage (R293). -/
theorem exec_of_selectStage_raise {c : FaultCode} {info : Word} (hs : s.fault = false)
    (hi : i = .asmSelect a l ∨ i = .asmEncode a l) (h : selectStage a l s = .raise c info) :
    exec i s = .next (recordFault c info s) := by
  rcases hi with rfl | rfl
  · exact exec_of_raise hs h
  · exact exec_of_raise hs (by simp [effectOf, h])

/-! ## ASM_DATA and ASM_BLOCKS, check by check (R291, R292) -/

theorem Assembles.dataStage_eq (h : Assembles s m p bits) : dataStage s = .done (assembled s p bits) := by
  rw [dataStage, if_pos h.valid, h.mode, h.profile]
  simp only [h.text, h.stream, if_true]
  rfl

theorem dataStage_of_no_selection (h : s.selValid = false) : dataStage s = .raise .sequenceError 0x51 := by
  simp [dataStage, h]

theorem dataStage_of_no_room (hsel : s.selValid = true) (hm : Mode.ofCode? s.mode.toNat = some m)
    (hp : s.cfg.profile? s.version.toNat s.level.toNat = some p) (htext : representable m s.mem.inbuf = true)
    (hbits : assembleData s.cfg m s.version.toNat p.totalData s.count.toNat s.mem.inbuf = none) :
    dataStage s = .raise .capacityExceeded s.count := by
  simp [dataStage, hsel, hm, hp, htext, hbits]

theorem Blocks.blocksStage_eq (h : Blocks s p)
    (hlen : p.g1Blocks * p.g1Data + p.g2Blocks * p.g2Data ≤ s.mem.data.length) :
    blocksStage s = .done (blocked s p) := by
  rw [blocksStage, if_pos h.valid, h.profile]
  exact if_neg hlen.not_gt

theorem blocksStage_of_no_data (h : s.dataValid = false) : blocksStage s = .raise .sequenceError 0x52 := by
  simp [blocksStage, h]

/-! ## The stages in sequence (R293) -/

/-- A command that ends with FAULT = 0 from FAULT = 0 has completed. -/
theorem effectOf_done_of_exec (hs : s.fault = false) (h : exec i s = .next t) (ht : t.fault = false) :
    effectOf i s = .done t := by
  rcases exec_next_cases h with ⟨_, hdone⟩ | ⟨_, c, info, _, rfl⟩ | ⟨hf, _⟩
  · exact hdone
  · cases ht
  · simp [hs] at hf

/-- Only a raise depends on the state that the fault is recorded over. -/
theorem commit_eq_commit {e : Effect} (h : ∀ c info, e ≠ .raise c info) : commit s e = commit t e := by
  cases e with
  | raise c info => exact absurd rfl (h c info)
  | done _ | undefined _ => rfl

/-- Directly after ASM_DATA the check of DATA_VALID passes. -/
theorem blocksStage_after_dataStage_ne_raise (h : dataStage s = .done t) (c : FaultCode) (info : Word) :
    blocksStage t ≠ .raise c info := by
  obtain ⟨_, _, _, _, rfl⟩ := dataStage_done_assembled h
  intro hraise
  cases (blocksStage_raise_cases hraise).1

/-! ## A covered text (R291, R406) -/

/-- A text within the capacity of its version fits the data stream of that version (R226). -/
theorem exists_assembleData_of_covered {cfg : Config} {n : Nat} {txt : List Byte} (hwf : cfg.wf = true)
    (hl : l.toNat ≤ 3) (hp : cfg.profile? v l.toNat = some p)
    (hv : findVersion cfg m l.toNat txt.length = some v) :
    ∃ bits, assembleData cfg m v p.totalData n txt = some bits := by
  obtain ⟨hpos, hle, hcovers⟩ := findVersion_some hv
  obtain ⟨_, hroom⟩ := Config.wf_capacity hwf m hpos hle hl
  rw [Config.totalData_of_profile hp] at hroom
  have hpayload := payloadBits_mono m hcovers
  rw [← Option.ne_none_iff_exists', Ne, assembleData_eq_none_iff, payload_length]
  omega

/-- The selection registers give the data stage the values they were computed from. -/
theorem Selects.assembles_selected (h : Selects s m l v) (hlen : s.mem.inbuf.length < 2 ^ 32)
    (hp : s.cfg.profile? v l.toNat = some p)
    (hbits : assembleData s.cfg m v p.totalData s.mem.inbuf.length s.mem.inbuf = some bits) :
    Assembles (selected s m l v) m p bits := by
  obtain ⟨_, hv, _⟩ := findVersion_some h.version
  have hmode : (selected s m l v).mode.toNat = m.code := toNat_ofNat_of_le m.code_le (by decide)
  have hlevel : (selected s m l v).level.toNat = l.toNat := toNat_zextByte l
  have hversion : (selected s m l v).version.toNat = v := toNat_ofNat_of_le hv (by decide)
  have hcount : (selected s m l v).count.toNat = s.mem.inbuf.length := toNat_ofNat_of_le le_rfl hlen
  exact ⟨rfl, hmode ▸ m.ofCode?_code, by rw [hversion, hlevel]; exact hp, firstInvalid_eq_none_iff.mp h.text,
    by rw [hversion, hcount]; exact hbits⟩

/-- The data stage leaves what the block stage reads. -/
theorem Assembles.blocks_assembled (h : Assembles s m p bits) : Blocks (assembled s p bits) p := ⟨rfl, h.profile⟩

end

/-! ## The statements -/

/-- Settles O53: a mode, a level, a text and a version pass every check of the first stage. -/
theorem asmSelectChoosesTheVersion : Obligations.AsmSelectChoosesTheVersion :=
  fun _ _ _ _ _ hs hreq hl htext hv =>
    exec_of_done hs (Selects.selectStage_eq ⟨hl, firstInvalid_eq_none_iff.mpr htext, hv⟩ hreq)

/-- Settles O54: each check of the first stage, with the ones before it passed, is the fault of both commands. -/
theorem selectionChecksInOrder : Obligations.SelectionChecksInOrder := by
  intro a l s hs i hi
  refine ⟨fun hreq => exec_of_selectStage_raise hs hi (selectStage_of_bad_mode hreq), fun m hreq =>
    ⟨fun hl => exec_of_selectStage_raise hs hi (selectStage_of_bad_level hreq hl), fun hl =>
      ⟨fun p hp => exec_of_selectStage_raise (c := .invalidCharacter) hs hi ?_, fun htext hv =>
        exec_of_selectStage_raise (c := .capacityExceeded) hs hi ?_⟩⟩⟩
  · rw [selectStage_of_legal hreq hl, hp]
  · rw [selectStage_of_legal hreq hl, htext, hv]

/-- Settles O55: SEL_VALID and then the room decide the second stage. -/
theorem asmDataBuildsTheStream : Obligations.AsmDataBuildsTheStream :=
  fun _ hs => ⟨fun hsel => exec_of_raise (i := .asmData) hs (dataStage_of_no_selection hsel), fun _ _ hsel hm hp htext =>
    ⟨fun _ hbits => exec_of_done hs (Assembles.dataStage_eq ⟨hsel, hm, hp, htext, hbits⟩),
      fun hbits => exec_of_raise (i := .asmData) hs (dataStage_of_no_room hsel hm hp htext hbits)⟩⟩

/-- Settles O56: DATA_VALID decides the third stage. -/
theorem asmBlocksInterleaves : Obligations.AsmBlocksInterleaves :=
  fun _ hs => ⟨fun hdata => exec_of_raise (i := .asmBlocks) hs (blocksStage_of_no_data hdata), fun _ hdata hp hlen =>
    exec_of_done hs (Blocks.blocksStage_eq ⟨hdata, hp⟩ hlen)⟩

/-- Settles O57: a fault of the first or the second stage is ASM_ENCODE's own, recorded over the first state, and the third
stage does not raise after the second. -/
theorem asmEncodeIsTheThreeStages : Obligations.AsmEncodeIsTheThreeStages := by
  intro a l s t u hs hselect
  refine ⟨fun ht => ?_, fun ht hdata => ?_⟩
  · obtain ⟨c, info, hraise, rfl⟩ := exec_raises_of_fault hs hselect ht
    exact exec_of_selectStage_raise hs (.inr rfl) hraise
  have hsel : selectStage a l s = .done t := effectOf_done_of_exec hs hselect ht
  have hstages : effectOf (.asmEncode a l) s = (dataStage t).andThen blocksStage := by simp [effectOf, hsel]
  refine ⟨fun hu => ?_, fun hu => ?_⟩
  · obtain ⟨c, info, hraise, rfl⟩ := exec_raises_of_fault ht hdata hu
    replace hraise : dataStage t = .raise c info := hraise
    exact exec_of_raise (c := c) (info := info) hs (by rw [hstages, hraise, Effect.andThen_raise])
  · have hdone : dataStage t = .done u := effectOf_done_of_exec ht hdata hu
    rw [exec_of_ok hs, exec_of_ok hu, hstages, hdone, Effect.andThen_done]
    exact commit_eq_commit (blocksStage_after_dataStage_ne_raise hdone)

/-- Settles O58: the checks of R226 make the data stream fit, and so each stage passes its checks. -/
theorem coveredTextsEncodeSuccessfully : Obligations.CoveredTextsEncodeSuccessfully := by
  intro a l m v s hs hwf hlen hreq hl htext hv
  obtain ⟨hpos, hle, _⟩ := findVersion_some hv
  obtain ⟨p, hp⟩ := Config.wf_profile_exists hwf hpos hle hl
  obtain ⟨bits, hbits⟩ := exists_assembleData_of_covered hwf hl hp hv
  have hselect : Selects s m l v := ⟨hl, firstInvalid_eq_none_iff.mpr htext, hv⟩
  have hassemble := hselect.assembles_selected (hlen.trans_lt (Config.wf_width hwf).1) hp hbits
  obtain ⟨_, _, _, hsum, _⟩ := Config.wf_profile_bounds hwf hp
  have hdata : (finalize bits).length = p.totalData := finalize_assembleData_length hbits
  have hblocks := hassemble.blocks_assembled.blocksStage_eq (hsum.trans hdata.symm).le
  refine ⟨p, bits, hp, hbits, exec_of_done hs ?_⟩
  simp only [effectOf, hselect.selectStage_eq hreq, Effect.andThen_done, hassemble.dataStage_eq, hblocks]

end Sys2Proof.Machine
end

section
/-! PROOFS (46_assembler.md R294; 70_reset_and_hazards.md R462). The shape of the streams after the block stage (O59). -/

open Sys2Proof.Spec

namespace Sys2Proof.Machine

/-- Clauses 1 to 3 of R294 for the profile p of the selection. -/
structure EncodedShape (t : State) (p : Profile) : Prop where
  profile   : t.cfg.profile? t.version.toNat t.level.toNat = some p
  data      : t.mem.data.length = p.totalData
  ecall     : t.mem.ecall.length = p.blocks * p.ecPerBlock
  final     : t.mem.final.length = p.totalData + p.blocks * p.ecPerBlock
  perm      : t.mem.final.Perm (t.mem.data ++ t.mem.ecall)
  codewords : ∀ j block, (splitBlocks p t.mem.data)[j]? = some block →
    syndromes (block ++ (t.mem.ecall.drop (j * p.ecPerBlock)).take p.ecPerBlock) p.ecPerBlock =
      List.replicate p.ecPerBlock 0

section
variable {s t : State} {m : Mode} {p : Profile} {bits : List Bool}

/-- FINAL has the length of DATA ++ ECALL because it is a permutation of it. -/
theorem Blocks.encodedShape (hb : Blocks s p) (h : s.Inv) : EncodedShape (blocked s p) p := by
  obtain ⟨_, hec, _, hsum, _⟩ := Config.wf_profile_bounds h.config hb.profile
  have hdata := h.data_length hb
  have hecall : (blocked s p).mem.ecall.length = p.blocks * p.ecPerBlock := by
    rw [← splitBlocks_length p s.mem.data]
    exact ecBlocks_flatten_length _ hec
  have hperm : (blocked s p).mem.final.Perm (s.mem.data ++ (blocked s p).mem.ecall) := by
    have hinterleaved := (interleave_perm_flatten (splitBlocks p s.mem.data)).append
      (interleave_perm_flatten (ecOf p s.mem.data))
    rwa [splitBlocks_flatten_eq (hdata.trans hsum.symm)] at hinterleaved
  refine ⟨hb.profile, hdata, hecall, ?_, hperm, fun j block hj => ?_⟩
  · rw [hperm.length_eq, List.length_append, hdata, hecall]
  · have hchunk : ((blocked s p).mem.ecall.drop (j * p.ecPerBlock)).take p.ecPerBlock = generateEC block p.ecPerBlock :=
      ecBlocks_flatten_chunk hec _ j hj
    rw [hchunk, syndromes_codeword block hec]

/-- Clause 4 of R294, after the data stage. -/
theorem Assembles.bsLen_eq (hd : Assembles s m p bits) (h : s.Inv) :
    (assembled s p bits).bsLen.toNat = 8 * p.totalData :=
  (h.assembled hd).stream.1.trans (assembleData_length hd.stream)

/-- The data stage and the block stage after it read the same row of the table. -/
theorem Assembles.profile_eq {q : Profile} (h : Assembles s m p bits) (hb : Blocks (assembled s p bits) q) : p = q :=
  Option.some.inj (h.profile.symm.trans hb.profile)

end

/-- Settles O59: the block stage gives clauses 1 to 3 in every state of the invariant, and leaves clause 4 as the data
stage made it. -/
theorem encodedStreamsHaveTheirShape : Obligations.EncodedStreamsHaveTheirShape := by
  refine ⟨fun i s t hs hf hexec ht hi => ?_, fun s t u hs hf hdata ht hblocks hu => ?_⟩
  · have hdone := effectOf_done_of_exec hf hexec ht
    rcases hi with rfl | ⟨a, l, rfl⟩
    · obtain ⟨p, hb, rfl⟩ := blocksStage_done_blocked hdone
      obtain ⟨hp, hdata, hecall, hfinal, hperm, hcode⟩ := hb.encodedShape hs
      exact ⟨p, hp, hdata, hecall, hfinal, hperm, hcode, by simp⟩
    · obtain ⟨_, _, hselect, hassemble, hblock⟩ := asmEncode_done_cases hdone
      obtain ⟨_, _, hsel, rfl⟩ := selectStage_done_selected hselect
      obtain ⟨_, p, bits, hd, rfl⟩ := dataStage_done_assembled hassemble
      obtain ⟨q, hb, rfl⟩ := blocksStage_done_blocked hblock
      obtain rfl := hd.profile_eq hb
      have hinv := hs.selected hsel
      obtain ⟨hp, hdata, hecall, hfinal, hperm, hcode⟩ := hb.encodedShape (hinv.assembled hd)
      exact ⟨p, hp, hdata, hecall, hfinal, hperm, hcode, fun _ => ⟨hd.bsLen_eq hinv, rfl⟩⟩
  · obtain ⟨_, p, bits, hd, rfl⟩ := dataStage_done_assembled (effectOf_done_of_exec hf hdata ht)
    obtain ⟨q, hb, rfl⟩ := blocksStage_done_blocked (effectOf_done_of_exec ht hblocks hu)
    obtain rfl := hd.profile_eq hb
    exact ⟨p, hb.profile, hd.bsLen_eq hs, rfl⟩

end Sys2Proof.Machine
end

section
/-! PROOFS (60_exceptions.md R402, R403, R416; 30_encoding.md R70). The step on the host's next word, the gate of the fault
state, and what a raised fault leaves (O5, O6, O8, O9). -/

open Sys2Proof.Spec

namespace Sys2Proof.Machine

section
variable {i : Instr} {s : State}

/-! ## The next word (R70) -/

/-- Delivering a whole word puts it in front of the inbox as it is (log entry 3). -/
theorem State.withFetchWord_toNat (s : State) (w : Command) :
    s.withFetchWord 64 w.toNat = { s with inbox := .word w :: s.inbox } := by
  rw [State.withFetchWord, Nat.mod_eq_of_lt w.isLt, BitVec.ofNat_toNat, BitVec.setWidth_eq]

theorem step_of_withFetchWord {w : Command} (hcfg : s.cfg.wf = true) (hw : decode w = .command i) :
    step (s.withFetchWord 64 w.toNat) = exec i s := by
  rw [State.withFetchWord_toNat]
  exact step_of_command hcfg rfl hw

/-! ## The gate (R403) -/

theorem runsInFaultState_eq_false (hnop : i ≠ .nop) (hreset : i ≠ .reset) (hread : ∀ n, i ≠ .regRead n) :
    runsInFaultState i = false := by
  refine Bool.eq_false_of_not_eq_true fun hruns => ?_
  rcases runsInFaultState_cases hruns with h | h | ⟨n, h⟩
  · exact hnop h
  · exact hreset h
  · exact hread n h

theorem illegalWord_of_fault (hf : s.fault = true) (op : Byte) : illegalWord op s = .next s := gated_of_fault hf _

theorem illegalWord_of_ok (hs : s.fault = false) (op : Byte) :
    illegalWord op s = .next (recordFault .illegalCommand (zextByte op) s) := gated_of_ok hs _

theorem exec_reset (s : State) : exec .reset s = .next (State.resetWith s.cfg s.inbox) :=
  exec_of_done_of_runsInFaultState rfl rfl

end

/-! ## The statements -/

/-- Settles O8: a command that ends with FAULT = 1 has raised, and a raise writes the record alone. -/
theorem faultingCommandsChangeOnlyTheRecord : Obligations.FaultingCommandsChangeOnlyTheRecord := by
  intro i s t hs hexec ht
  obtain ⟨c, info, _, hrecord⟩ := exec_raises_of_fault hs hexec ht
  exact ⟨c, info, hrecord⟩

/-- Settles O9: the step on the word is `illegalWord` or `exec`, whose gate FAULT decides. -/
theorem faultStateGate : Obligations.FaultStateGate := by
  intro s w rest hcfg hin
  constructor
  · intro hf
    have hfault : { s with inbox := rest }.fault = true := hf
    refine ⟨fun why hw => ?illegal, fun i hw hnop hreset hread => ?discarded, fun hw => ?nop, fun hw => ?reset,
      fun n hw hn => ?noRegister, fun n v hw hv => ?register⟩
    case illegal => rw [step_of_illegal hcfg hin hw, illegalWord_of_fault hfault]
    all_goals rw [step_of_command hcfg hin hw]
    case discarded => exact exec_of_fault hfault (runsInFaultState_eq_false hnop hreset hread)
    case nop => exact nopChangesNothing.1 _
    case reset => exact exec_reset _
    case noRegister => exact exec_of_illegal_operand_of_fault hfault (decide_eq_false (by omega))
    case register => exact exec_regRead_of_registerFile hv
  · intro hs
    have hok : { s with inbox := rest }.fault = false := hs
    refine ⟨fun why hw => ?_, fun i hw => step_of_command hcfg hin hw⟩
    rw [step_of_illegal hcfg hin hw, illegalWord_of_ok hok]
    rfl

/-- Settles O5: the step takes the word and executes its command. -/
theorem stepRunsTheDecodedCommand : Obligations.StepRunsTheDecodedCommand := fun _ _ _ _ => step_of_command

/-- Settles O6: an empty inbox leaves the state, and a delivered word is taken off again before its command runs. -/
theorem blockHoldsItsStateBetweenWords : Obligations.BlockHoldsItsStateBetweenWords :=
  ⟨fun _ => step_of_silent_host, fun _ _ _ => step_of_withFetchWord⟩

end Sys2Proof.Machine
end

section
/-! PROOFS (70_reset_and_hazards.md R450 to R452). The reset state, by RESET and by the reset input (O12, O13). -/

open Sys2Proof.Spec

namespace Sys2Proof.Machine

section
variable (cfg : Config) (inbox : List HostInput)

/-! ## The reset state (R450, R451) -/

/-- The default configuration passes R226 and R53. -/
theorem Config.standard_wf : Config.standard.wf = true := by decide +kernel

@[simp] theorem status_resetWith : (State.resetWith cfg inbox).status = 0 := by
  simp [State.status, State.resetWith, flagWord]

/-- Every register but STATUS is 0 as the reset state writes it. -/
theorem registerFile_resetWith : registerFile (State.resetWith cfg inbox) = List.replicate 15 0 := by
  rw [registerFile, status_resetWith]; rfl

/-- An empty bitstream packs to no byte (R31). -/
@[simp] theorem finalize_nil : finalize [] = [] := rfl

theorem bufferFile_resetWith : bufferFile (State.resetWith cfg inbox) = List.replicate 9 [] := by
  simp [bufferFile, State.resetWith, Memory.empty, List.replicate]

/-! ## Its two causes -/

/-- The reset input has the effect of RESET on the state with that input taken. -/
theorem step_of_resetInput_eq_exec_reset {s : State} {rest : List HostInput} (hcfg : s.cfg.wf = true)
    (hin : s.inbox = .resetInput :: rest) : step s = exec .reset { s with inbox := rest } :=
  (step_of_resetInput hcfg hin).trans (exec_reset _).symm

end

/-! ## The statements -/

/-- Settles O12: RESET runs whatever FAULT is and answers the reset state, whose fields are as R450 says, and the reset
input has the effect of RESET. -/
theorem resetClearsAllState : Obligations.ResetClearsAllState := by
  refine ⟨fun s => ⟨?cleared, exec_reset s, fun rest => step_of_resetInput_eq_exec_reset⟩, rfl⟩
  case cleared =>
    exact ⟨State.resetWith s.cfg s.inbox, exec_reset s, registerFile_resetWith _ _, rfl, rfl, rfl, rfl, rfl, rfl,
      bufferFile_resetWith _ _, rfl, rfl⟩

/-- Settles O13: the default configuration is one of the well-formed ones. -/
theorem resetMeetsTheInvariant : Obligations.ResetMeetsTheInvariant :=
  ⟨inv_resetWith [] Config.standard_wf, fun _ inbox => inv_resetWith inbox⟩

end Sys2Proof.Machine
end
